-- ==== Sys2Proof/Word.lean ====
section
/-! DEFINITION. The word types of the core (R8, R9, R10): every value the spec treats as bits is a bit vector of the
spec's own width, and every one of them is unsigned (R10). -/

namespace Sys2Proof

/-- A command word (CMD_WIDTH = 32, R9, R70). -/
abbrev Word := BitVec 32

/-- One 16-bit limb of the hash state (LIMB_WIDTH, R8). -/
abbrev Limb := BitVec 16

/-- A UTF-16 code unit (CODE_UNIT_WIDTH, R8); any value is legal (R129). -/
abbrev CodeUnit := BitVec 16

/-- A produced or folded byte, and the code of a character (BYTE_WIDTH, R8; R101). -/
abbrev Byte := BitVec 8

/-- The hash value V, the four limbs read as one number modulo 2^64 (STATE_WIDTH, R8, R22). -/
abbrev Hash := BitVec 64

/-- A read-port address (RD_ADDR_WIDTH = 4, R9, R21). -/
abbrev RdAddr := BitVec 4

/-- What the read port answers (RD_DATA_WIDTH = 16, R9), and one entry of the hex ROM (R32). -/
abbrev RdData := BitVec 16

/-- A code point built from a surrogate pair (R124: 21 bits). -/
abbrev CodePoint := BitVec 21

end Sys2Proof
end

