-- ==== Sys2Proof/Config.lean ====
section
/-! DEFINITION. What is fixed for every core (R2, R8) and the one parameter the spec leaves open (CMD_BYTE_ORDER, R9).
The core has no run-time configuration (R20). -/

namespace Sys2Proof

/-- OFFSET_BASIS (R2, R8): the value of V before any byte is folded. -/
def Config.offsetBasis : Hash := 0xcbf29ce484222325#64

/-- FNV_PRIME (R2, R8), 2^40 + 0x1b3. -/
def Config.fnvPrime : Hash := 0x100000001b3#64

/-- The low limb p0 of the prime (R152): 0x1b3 = 435, the multiplier of every limb. -/
def Config.primeLow : Nat := 435

/-- CMD_BYTE_ORDER (R9, R54, D19), left OPEN by the spec: how a bus narrower than the command port lays the four bytes of a
command word out. A FREE VALUE: a permutation without a body, byte `i` of a transfer landing in byte lane `cmdByteOrder i`
of the word, so no proof can rest on one order. The core itself sees only the 32-bit word, and no command reads this
parameter (log entry 3). -/
opaque Config.cmdByteOrder : Equiv.Perm (Fin 4)

end Sys2Proof
end

