-- ==== Sys2Proof/Syntax.lean ====
section
/-! DEFINITION. The syntax: the commands of spec/opcode_table.json (R73), what decoding a word answers (R76), the causes of a
rejection (R202), and the lines of the assembly language (R78, R79). -/

namespace Sys2Proof

/-- The commands (R73), one constructor per row of the opcode table. -/
inductive Instr where
  /-- NOP, OPC 0x00 (R181). -/
  | nop
  /-- INIT, OPC 0x01 (R180). -/
  | init
  /-- UNIT u16, OPC 0x02 (R126): any code unit. -/
  | unit (u : CodeUnit)
  /-- END, OPC 0x03 (R127). -/
  | endInput
  /-- FOLD b8, OPC 0x04 (R155): any byte. -/
  | fold (b : Byte)
  /-- HEXB b8, OPC 0x05 (R103): any byte. -/
  | hexb (b : Byte)
deriving DecidableEq, Repr

/-- The causes of a rejection (R202); ECODE = 0 (NONE) is the absence of one. -/
inductive Cause where
  /-- ILLEGAL_OPCODE, code 1 (R75). -/
  | illegalOpcode
  /-- RESERVED_FIELD, code 2 (R74). -/
  | reservedField
  /-- FOLD_PENDING, code 3 (R204). -/
  | foldPending
  /-- AFTER_END, code 4 (R203). -/
  | afterEnd
deriving DecidableEq, Repr

/-- What the decoder answers for a word (R76): exactly one command, or one rejection. -/
inductive Decoded where
  /-- The word is this command. -/
  | cmd (i : Instr)
  /-- The word is rejected with this cause. -/
  | reject (c : Cause)
deriving DecidableEq, Repr

/-- One line of assembly (R78) or one pseudo-instruction (R79), with its operands as the numbers and characters the line
spells: the range of a number is checked by `AsmLine.wf`, not by its type. -/
inductive AsmLine where
  /-- A line that holds no command: blank, or a comment only. -/
  | blank
  | nop
  | init
  /-- `UNIT n`, a hexadecimal or decimal number. -/
  | unit (n : Nat)
  /-- `UNIT 'c'`, a character literal. -/
  | unitChar (c : Char)
  | endInput
  | fold (n : Nat)
  | hexb (n : Nat)
  /-- `.word n`, a raw command word. -/
  | word (n : Nat)
  /-- `RD name`, a host read-port access and no command. -/
  | rd (a : RdAddr)
  /-- `TEXT "s"`. -/
  | text (s : List Char)
  /-- `DIGEST "s"`. -/
  | digest (s : List Char)
  /-- `UNITS u1, ..., un`. -/
  | units (us : List Nat)
  /-- `BYTES b1, ..., bk`. -/
  | bytes (bs : List Nat)
  /-- `READDIG`. -/
  | readdig
deriving DecidableEq, Repr

end Sys2Proof
end

