-- ==== Sys2Proof/Machine/Operands.lean ====
section
/-! DEFINITION. The fields of a command word (R70), the operand forms (R72), the classes of a code unit (R120), and the
assembling of a word on a narrower bus (R9). -/

namespace Sys2Proof.Machine

/-! ## The fields of format C (R70) -/

/-- OPC, bits 31:24. -/
def opcField (w : Word) : BitVec 8 := w.extractLsb' 24 8

/-- RSV, bits 23:16. -/
def rsvField (w : Word) : BitVec 8 := w.extractLsb' 16 8

/-- IMM, bits 15:0. -/
def immField (w : Word) : BitVec 16 := w.extractLsb' 0 16

/-- A word of format C, from its three fields. -/
def formatC (opc rsv : BitVec 8) (imm : BitVec 16) : Word := opc ++ rsv ++ imm

/-! ## The operand forms (R72) -/

/-- IMM[15:8], which the form `b8` requires to be 0x00. -/
def immHigh (imm : BitVec 16) : BitVec 8 := imm.extractLsb' 8 8

/-- Form `b8`: the byte IMM[7:0]. -/
def operandByte (imm : BitVec 16) : Byte := imm.extractLsb' 0 8

/-- Form `u16`: the code unit IMM[15:0], taken as-is (R54). -/
def operandUnit (imm : BitVec 16) : CodeUnit := imm

/-- The IMM field of a byte operand: the byte, with IMM[15:8] = 0x00. -/
def immOfByte (b : Byte) : BitVec 16 := 0x00#8 ++ b

/-! ## The bytes of a limb (R52) -/

/-- The high byte of a limb, bits 15:8. -/
def highByte (l : BitVec 16) : Byte := l.extractLsb' 8 8

/-- The low byte of a limb, bits 7:0. -/
def lowByte (l : BitVec 16) : Byte := l.extractLsb' 0 8

/-! ## The classes of a code unit (R120, R13) -/

/-- A high surrogate: 0xD800..0xDBFF. -/
def isHigh (u : CodeUnit) : Bool := decide (0xD800#16 ≤ u) && decide (u ≤ 0xDBFF#16)

/-- A low surrogate: 0xDC00..0xDFFF. -/
def isLow (u : CodeUnit) : Bool := decide (0xDC00#16 ≤ u) && decide (u ≤ 0xDFFF#16)

/-- Class ONE: 0x0000..0x007F. -/
def isOne (u : CodeUnit) : Bool := decide (u < 0x80#16)

/-- Class TWO: 0x0080..0x07FF. -/
def isTwo (u : CodeUnit) : Bool := decide (0x80#16 ≤ u) && decide (u < 0x800#16)

/-- Class THREE: 0x0800..0xD7FF and 0xE000..0xFFFF. -/
def isThree (u : CodeUnit) : Bool :=
  (decide (0x800#16 ≤ u) && decide (u ≤ 0xD7FF#16)) || decide (0xE000#16 ≤ u)

/-! ## A command word on a narrower bus (R9, R54) -/

/-- Byte lane `k` of a word, lane 0 the least significant. -/
def byteLane (w : Word) (k : Fin 4) : Byte := w.extractLsb' (8 * k.val) 8

/-- The word a four-byte transfer makes when byte `i` of the transfer lands in lane `order i`. -/
def wordOfTransfer (order : Equiv.Perm (Fin 4)) (bytes : Fin 4 → Byte) : Word :=
  bytes (order.symm 3) ++ bytes (order.symm 2) ++ bytes (order.symm 1) ++ bytes (order.symm 0)

/-- The word the platform's bus makes, in the open order CMD_BYTE_ORDER (R9). -/
def cmdWordOfBytes (bytes : Fin 4 → Byte) : Word := wordOfTransfer Config.cmdByteOrder bytes

end Sys2Proof.Machine
end

