-- ==== Sys2Proof/WellFormed.lean ====
section
/-! DEFINITION. Well-formedness: of a command as syntax, of a raw command word (R74, R75), and of a line of assembly (R78). -/

namespace Sys2Proof

open Sys2Proof.Machine

/-- Every command of the syntax is well-formed: its operand's type is its operand's width, and every value of that width is
legal (R72, R129, R155). The checks that can fail are those on raw words and on assembly operands, below. -/
def Instr.wf : Instr → Bool
  | .nop => true
  | .init => true
  | .unit _ => true
  | .endInput => true
  | .fold _ => true
  | .hexb _ => true

/-- The word's OPC names a command: it is not one of 0x06..0xFF (R75). -/
def opcodeLegal (w : Word) : Bool := decide (opcField w < 0x06#8)

/-- RSV = 0x00 (R74, first item). -/
def rsvClear (w : Word) : Bool := decide (rsvField w = 0x00#8)

/-- The operand form of the word's OPC allows its IMM (R72; R74, second and third item). -/
def immLegal (w : Word) : Bool :=
  if opcField w = 0x02#8 then true
  else if opcField w = 0x04#8 ∨ opcField w = 0x05#8 then decide (immHigh (immField w) = 0x00#8)
  else decide (immField w = 0x0000#16)

/-- A reserved-field word (R74): a legal OPC with a field that breaks its constraint. -/
def reservedFieldWord (w : Word) : Bool := opcodeLegal w && !(rsvClear w && immLegal w)

/-- A word that some command is encoded by: neither an illegal-opcode word nor a reserved-field word. -/
def wordWf (w : Word) : Bool := opcodeLegal w && rsvClear w && immLegal w

/-- A number the assembler takes as UNIT's operand (R78): 0..0xFFFF. -/
def unitOperandOk (n : Nat) : Bool := decide (n ≤ 0xFFFF)

/-- A number the assembler takes as FOLD's or HEXB's operand (R78): 0..0xFF. -/
def byteOperandOk (n : Nat) : Bool := decide (n ≤ 0xFF)

/-- A character that is a single UTF-16 code unit, the only kind a character literal may hold (R78). -/
def singleUnitChar (c : Char) : Bool := decide (c.toNat ≤ 0xFFFF)

/-- What the assembler accepts (R78, R79): every operand within its range. -/
def AsmLine.wf : AsmLine → Bool
  | .blank => true
  | .nop => true
  | .init => true
  | .unit n => unitOperandOk n
  | .unitChar c => singleUnitChar c
  | .endInput => true
  | .fold n => byteOperandOk n
  | .hexb n => byteOperandOk n
  | .word n => decide (n < 2 ^ 32)
  | .rd _ => true
  | .text _ => true
  | .digest _ => true
  | .units us => us.all unitOperandOk
  | .bytes bs => bs.all byteOperandOk
  | .readdig => true

end Sys2Proof
end

