-- ==== Sys2Proof/Decode.lean ====
section
/-! DEFINITION. The decoder, total over every 32-bit word (R76), and the encoder written from the same table (R73). -/

namespace Sys2Proof

open Sys2Proof.Machine

/-- The decoder (R76): the illegal-opcode check before the reserved-field checks (R205), and no dependence on state. -/
def decode (w : Word) : Decoded :=
  if 0x06#8 ≤ opcField w then .reject .illegalOpcode
  else if rsvField w ≠ 0x00#8 then .reject .reservedField
  else if opcField w = 0x00#8 then
    if immField w ≠ 0x0000#16 then .reject .reservedField else .cmd .nop
  else if opcField w = 0x01#8 then
    if immField w ≠ 0x0000#16 then .reject .reservedField else .cmd .init
  else if opcField w = 0x02#8 then .cmd (.unit (operandUnit (immField w)))
  else if opcField w = 0x03#8 then
    if immField w ≠ 0x0000#16 then .reject .reservedField else .cmd .endInput
  else if opcField w = 0x04#8 then
    if immHigh (immField w) ≠ 0x00#8 then .reject .reservedField
    else .cmd (.fold (operandByte (immField w)))
  else
    if immHigh (immField w) ≠ 0x00#8 then .reject .reservedField
    else .cmd (.hexb (operandByte (immField w)))

/-- The operation code of a command (R73). -/
def Instr.opc : Instr → BitVec 8
  | .nop => 0x00#8
  | .init => 0x01#8
  | .unit _ => 0x02#8
  | .endInput => 0x03#8
  | .fold _ => 0x04#8
  | .hexb _ => 0x05#8

/-- The IMM field of a command (R72, R73). -/
def Instr.imm : Instr → BitVec 16
  | .nop => 0x0000#16
  | .init => 0x0000#16
  | .unit u => u
  | .endInput => 0x0000#16
  | .fold b => immOfByte b
  | .hexb b => immOfByte b

/-- The word of a command (R70, R73): its OPC, RSV = 0x00, its IMM. -/
def encode (i : Instr) : Word := formatC i.opc 0x00#8 i.imm

/-- The command of a decoder's answer, if it is one. -/
def Decoded.toInstr : Decoded → Option Instr
  | .cmd i => some i
  | .reject _ => none

/-- The command word whose bits are `w`, bit 0 the least significant, every bit from `nbits` on zero. A command is one
32-bit word (R71), so nothing above bit 31 is read. -/
def wordOfBits (nbits w : Nat) : Word := BitVec.ofNat 32 (w % 2 ^ nbits)

/-- The command the decoder reads from the opcode table's numbering of a word (the host's question). -/
def decodeTableWord (nbits w : Nat) : Option Instr := (decode (wordOfBits nbits w)).toInstr

end Sys2Proof
end

