-- ==== Sys2Proof/Machine/State.lean ====
section
/-! DEFINITION. The state of one core (R20) beside the model's own input stream and read log, the reasons a step can stop, and
the state after reset (R36, R230). -/

namespace Sys2Proof.Machine

/-- What reaches the core from outside, one at a time (R3, R60): a command word on the command port (R70), an access to the
read port (R57), or the reset input (R230). -/
inductive HostEvent where
  /-- The host writes one word to the command port. -/
  | command (w : Word)
  /-- The host reads address `a` of the read port. -/
  | read (a : RdAddr)
  /-- The reset input is asserted. -/
  | reset
deriving DecidableEq, Repr

/-- One answer of the read port: the address read and the value returned (R57). -/
structure PortRead where
  addr : RdAddr
  data : RdData
deriving DecidableEq, Repr

/-- The state. The first ten fields are R20's list, whole (HEXROM, its last row, is a constant function, R105). The last
two are the MODEL's own, not the core's (log entries 1 and 2): what the host does next, and what its reads have returned. -/
structure State where
  /-- v0, the least significant limb (R22). -/
  v0 : Limb
  /-- v1 (R22). -/
  v1 : Limb
  /-- v2 (R22). -/
  v2 : Limb
  /-- v3, the most significant limb (R22). -/
  v3 : Limb
  /-- PV: a high surrogate is pending (R24). -/
  pv : Bool
  /-- PEND: the pending high surrogate (R24). -/
  pend : CodeUnit
  /-- DONE: the input of the current digest has ended (R25). -/
  done : Bool
  /-- ERR: a command was rejected since INIT or reset (R26). -/
  err : Bool
  /-- ECODE: the cause of the first rejection (R26). -/
  ecode : BitVec 4
  /-- HEXR: the last HEXB result (R29). -/
  hexr : RdData
  /-- The model's own: what the host does next, the next event first (log entry 1). -/
  hostIn : List HostEvent
  /-- The model's own: what the read port has returned, oldest first (log entry 2). -/
  hostOut : List PortRead
deriving DecidableEq, Repr

/-- The faults of the core: NONE (R200, R206). The spec makes every bad command a rejection that the core records and goes on
from (R201), so the type is empty, and nobody raises a fault. -/
inductive Fault where
deriving DecidableEq, Repr

/-- The refusals of the model. -/
inductive Refusal where
  /-- An instruction of the opcode table that has no meaning in the model yet. Raised by an arm of `exec` only; no arm
  raises it, since every command has its meaning. Safe. -/
  | notModelled (mnemonic : String)
deriving DecidableEq, Repr

/-- The core right after reset (R36, R230), with a host that has done nothing yet (log entries 1 and 2). -/
def State.reset : State where
  v0 := 0x2325#16
  v1 := 0x8422#16
  v2 := 0x9ce4#16
  v3 := 0xcbf2#16
  pv := false
  pend := 0x0000#16
  done := false
  err := false
  ecode := 0#4
  hexr := 0x0000#16
  hostIn := []
  hostOut := []

end Sys2Proof.Machine
end

