-- ==== Sys2Proof/Machine/Flags.lean ====
section
/-! DEFINITION. The flags: the STATUS word (R27), the cause codes (R202), and the state checks on DONE and PV (R203, R204). -/

namespace Sys2Proof.Machine

/-- The ECODE value of a cause (R202). -/
def causeCode : Cause → BitVec 4
  | .illegalOpcode => 1#4
  | .reservedField => 2#4
  | .foldPending => 3#4
  | .afterEnd => 4#4

/-- STATUS (R27): ECODE in bits 7:4, ERR in bit 2, DONE in bit 1, PV in bit 0; bits 3 and 15:8 are reserved and read 0. -/
def State.status (s : State) : RdData :=
  (s.ecode ++ 0b0#1 ++ BitVec.ofBool s.err ++ BitVec.ofBool s.done ++ BitVec.ofBool s.pv).setWidth 16

/-- The cause a decoded command is rejected with in this state, if any (R203, R204), in the order of R205: AFTER_END before
FOLD_PENDING. NOP, INIT, END and HEXB are never rejected. -/
def State.sequenceError (s : State) : Instr → Option Cause
  | .nop => none
  | .init => none
  | .unit _ => if s.done then some .afterEnd else none
  | .endInput => none
  | .fold _ => if s.done then some .afterEnd else if s.pv then some .foldPending else none
  | .hexb _ => none

/-- ERR and ECODE after a rejection with this code (R201): the first cause is kept. -/
def State.firstCause (s : State) (code : BitVec 4) : BitVec 4 := if s.err then s.ecode else code

end Sys2Proof.Machine
end

