-- ==== Sys2Proof/Machine/Ops.lean ====
section
/-! DEFINITION. The named operations over the state: V and its limbs (R22), the pending surrogate (R24), DONE (R25), the one
rejection operation (R201) and the clearing of its record (R207), HEXR (R29), reset (R230), and the host's stream.

A rejection is this core's whole exception mechanism: it saves no state, changes no mode and transfers no control, and there
is no return from it (R206). -/

namespace Sys2Proof.Machine

/-! ## The hash value (R22) -/

/-- V = v3 ++ v2 ++ v1 ++ v0. -/
def State.V (s : State) : Hash := s.v3 ++ s.v2 ++ s.v1 ++ s.v0

/-- Limb `k` of a hash value: v0 = V[15:0], v1 = V[31:16], v2 = V[47:32], v3 = V[63:48]. -/
def limbOf (k : Nat) (v : Hash) : Limb := v.extractLsb' (16 * k) 16

/-- V <- v, limb by limb. -/
def State.setV (s : State) (v : Hash) : State :=
  { s with v0 := limbOf 0 v, v1 := limbOf 1 v, v2 := limbOf 2 v, v3 := limbOf 3 v }

/-- The limbs of the offset basis (R8, R180): (v3, v2, v1, v0) <- (0xcbf2, 0x9ce4, 0x8422, 0x2325). -/
def State.setBasis (s : State) : State :=
  { s with v3 := 0xcbf2#16, v2 := 0x9ce4#16, v1 := 0x8422#16, v0 := 0x2325#16 }

/-! ## The pending surrogate and the end of input (R24, R25) -/

/-- PV <- 1; PEND <- u. -/
def State.setPending (s : State) (u : CodeUnit) : State := { s with pv := true, pend := u }

/-- PV <- 0; PEND <- 0x0000. -/
def State.clearPending (s : State) : State := { s with pv := false, pend := 0x0000#16 }

/-- DONE <- d. -/
def State.setDone (s : State) (d : Bool) : State := { s with done := d }

/-! ## Rejection (R201) -/

/-- `raise CmdError(code)` (R201, R202): if ERR = 0 then ECODE <- code; ERR <- 1; nothing else changes. -/
def State.cmdError (s : State) (c : Cause) : State :=
  { s with err := true, ecode := s.firstCause (causeCode c) }

/-- ERR <- 0; ECODE <- 0 (R207), done by INIT and reset only. -/
def State.clearError (s : State) : State := { s with err := false, ecode := 0#4 }

/-! ## The hex result (R29) -/

/-- HEXR <- d. -/
def State.setHexr (s : State) (d : RdData) : State := { s with hexr := d }

/-! ## Reset (R230) and the host's stream (log entries 1 and 2) -/

/-- The reset event: every piece of the core's state takes its reset value; what the host goes on to do, and what it has
read, are not the core's and stay. -/
def State.applyReset (s : State) : State :=
  { State.reset with hostIn := s.hostIn, hostOut := s.hostOut }

/-- The host's stream is replaced. -/
def State.setHostIn (s : State) (es : List HostEvent) : State := { s with hostIn := es }

/-- One answer of the read port is recorded, after the earlier ones. -/
def State.logRead (s : State) (r : PortRead) : State := { s with hostOut := s.hostOut ++ [r] }

/-- The host's next event, taken off its stream; none when the host is idle. -/
def State.takeEvent (s : State) : Option (HostEvent × State) :=
  match s.hostIn with
  | [] => none
  | e :: rest => some (e, s.setHostIn rest)

end Sys2Proof.Machine
end

