-- ==== Sys2Proof/Machine/HexTable.lean ====
section
/-! DEFINITION. The hex lookup table (R100 to R102, R105) and HEXB (R103). -/

namespace Sys2Proof.Machine

/-- The ASCII code of a hex digit (R101): '0'..'9' = 0x30..0x39, 'a'..'f' = 0x61..0x66. -/
def digit (n : BitVec 4) : Byte :=
  if n < 10#4 then 0x30#8 + n.setWidth 8 else 0x61#8 + (n.setWidth 8 - 10#8)

/-- HEX(b), entry `b` of the hex ROM (R100): the first character in bits 15:8, the second in bits 7:0. The ROM is constant and
has no write path, so it is a pure function (R105). -/
def hex (b : Byte) : RdData := digit (b.extractLsb' 4 4) ++ digit (b.extractLsb' 0 4)

/-! ## The ROM written out (R102), copied row by row from the spec's grid; row = b[7:4], column = b[3:0] -/

/-- Row 0 of R102. -/
def hexRow0 : List RdData :=
  [0x3030#16, 0x3031#16, 0x3032#16, 0x3033#16, 0x3034#16, 0x3035#16, 0x3036#16, 0x3037#16,
   0x3038#16, 0x3039#16, 0x3061#16, 0x3062#16, 0x3063#16, 0x3064#16, 0x3065#16, 0x3066#16]

/-- Row 1 of R102. -/
def hexRow1 : List RdData :=
  [0x3130#16, 0x3131#16, 0x3132#16, 0x3133#16, 0x3134#16, 0x3135#16, 0x3136#16, 0x3137#16,
   0x3138#16, 0x3139#16, 0x3161#16, 0x3162#16, 0x3163#16, 0x3164#16, 0x3165#16, 0x3166#16]

/-- Row 2 of R102. -/
def hexRow2 : List RdData :=
  [0x3230#16, 0x3231#16, 0x3232#16, 0x3233#16, 0x3234#16, 0x3235#16, 0x3236#16, 0x3237#16,
   0x3238#16, 0x3239#16, 0x3261#16, 0x3262#16, 0x3263#16, 0x3264#16, 0x3265#16, 0x3266#16]

/-- Row 3 of R102. -/
def hexRow3 : List RdData :=
  [0x3330#16, 0x3331#16, 0x3332#16, 0x3333#16, 0x3334#16, 0x3335#16, 0x3336#16, 0x3337#16,
   0x3338#16, 0x3339#16, 0x3361#16, 0x3362#16, 0x3363#16, 0x3364#16, 0x3365#16, 0x3366#16]

/-- Row 4 of R102. -/
def hexRow4 : List RdData :=
  [0x3430#16, 0x3431#16, 0x3432#16, 0x3433#16, 0x3434#16, 0x3435#16, 0x3436#16, 0x3437#16,
   0x3438#16, 0x3439#16, 0x3461#16, 0x3462#16, 0x3463#16, 0x3464#16, 0x3465#16, 0x3466#16]

/-- Row 5 of R102. -/
def hexRow5 : List RdData :=
  [0x3530#16, 0x3531#16, 0x3532#16, 0x3533#16, 0x3534#16, 0x3535#16, 0x3536#16, 0x3537#16,
   0x3538#16, 0x3539#16, 0x3561#16, 0x3562#16, 0x3563#16, 0x3564#16, 0x3565#16, 0x3566#16]

/-- Row 6 of R102. -/
def hexRow6 : List RdData :=
  [0x3630#16, 0x3631#16, 0x3632#16, 0x3633#16, 0x3634#16, 0x3635#16, 0x3636#16, 0x3637#16,
   0x3638#16, 0x3639#16, 0x3661#16, 0x3662#16, 0x3663#16, 0x3664#16, 0x3665#16, 0x3666#16]

/-- Row 7 of R102. -/
def hexRow7 : List RdData :=
  [0x3730#16, 0x3731#16, 0x3732#16, 0x3733#16, 0x3734#16, 0x3735#16, 0x3736#16, 0x3737#16,
   0x3738#16, 0x3739#16, 0x3761#16, 0x3762#16, 0x3763#16, 0x3764#16, 0x3765#16, 0x3766#16]

/-- Row 8 of R102. -/
def hexRow8 : List RdData :=
  [0x3830#16, 0x3831#16, 0x3832#16, 0x3833#16, 0x3834#16, 0x3835#16, 0x3836#16, 0x3837#16,
   0x3838#16, 0x3839#16, 0x3861#16, 0x3862#16, 0x3863#16, 0x3864#16, 0x3865#16, 0x3866#16]

/-- Row 9 of R102. -/
def hexRow9 : List RdData :=
  [0x3930#16, 0x3931#16, 0x3932#16, 0x3933#16, 0x3934#16, 0x3935#16, 0x3936#16, 0x3937#16,
   0x3938#16, 0x3939#16, 0x3961#16, 0x3962#16, 0x3963#16, 0x3964#16, 0x3965#16, 0x3966#16]

/-- Row A of R102. -/
def hexRowA : List RdData :=
  [0x6130#16, 0x6131#16, 0x6132#16, 0x6133#16, 0x6134#16, 0x6135#16, 0x6136#16, 0x6137#16,
   0x6138#16, 0x6139#16, 0x6161#16, 0x6162#16, 0x6163#16, 0x6164#16, 0x6165#16, 0x6166#16]

/-- Row B of R102. -/
def hexRowB : List RdData :=
  [0x6230#16, 0x6231#16, 0x6232#16, 0x6233#16, 0x6234#16, 0x6235#16, 0x6236#16, 0x6237#16,
   0x6238#16, 0x6239#16, 0x6261#16, 0x6262#16, 0x6263#16, 0x6264#16, 0x6265#16, 0x6266#16]

/-- Row C of R102. -/
def hexRowC : List RdData :=
  [0x6330#16, 0x6331#16, 0x6332#16, 0x6333#16, 0x6334#16, 0x6335#16, 0x6336#16, 0x6337#16,
   0x6338#16, 0x6339#16, 0x6361#16, 0x6362#16, 0x6363#16, 0x6364#16, 0x6365#16, 0x6366#16]

/-- Row D of R102. -/
def hexRowD : List RdData :=
  [0x6430#16, 0x6431#16, 0x6432#16, 0x6433#16, 0x6434#16, 0x6435#16, 0x6436#16, 0x6437#16,
   0x6438#16, 0x6439#16, 0x6461#16, 0x6462#16, 0x6463#16, 0x6464#16, 0x6465#16, 0x6466#16]

/-- Row E of R102. -/
def hexRowE : List RdData :=
  [0x6530#16, 0x6531#16, 0x6532#16, 0x6533#16, 0x6534#16, 0x6535#16, 0x6536#16, 0x6537#16,
   0x6538#16, 0x6539#16, 0x6561#16, 0x6562#16, 0x6563#16, 0x6564#16, 0x6565#16, 0x6566#16]

/-- Row F of R102. -/
def hexRowF : List RdData :=
  [0x6630#16, 0x6631#16, 0x6632#16, 0x6633#16, 0x6634#16, 0x6635#16, 0x6636#16, 0x6637#16,
   0x6638#16, 0x6639#16, 0x6661#16, 0x6662#16, 0x6663#16, 0x6664#16, 0x6665#16, 0x6666#16]

/-- HEXROM (R32, R102): the 256 entries. -/
def hexRom : List RdData :=
  hexRow0 ++ hexRow1 ++ hexRow2 ++ hexRow3 ++ hexRow4 ++ hexRow5 ++ hexRow6 ++ hexRow7 ++
  hexRow8 ++ hexRow9 ++ hexRowA ++ hexRowB ++ hexRowC ++ hexRowD ++ hexRowE ++ hexRowF

/-! ## HEXB -/

/-- HEXB b8 (R103): HEXR <- HEX(b). -/
def execHexb (b : Byte) (s : State) : Host.Outcome State Fault Refusal := .next (s.setHexr (hex b))

end Sys2Proof.Machine
end

