-- ==== Sys2Proof/Machine/Accumulator.lean ====
section
/-! DEFINITION. The FNV-1a accumulator: the fold (R150), the 16-bit limb datapath (R152) and FOLD (R155). -/

namespace Sys2Proof.Machine

/-! ## The fold (R150), normative -/

/-- One fold of a hash value: ((V ^ zext_64(b)) * 0x100000001b3) mod 2^64 (R150). The product is written with the prime on
the left: a kernel that unfolds it at an unknown V then stops at once, instead of counting down the prime. -/
def foldHash (v : Hash) (b : Byte) : Hash := Config.fnvPrime * (v ^^^ b.setWidth 64)

/-- FoldAll(V, bs) (R185): the bytes folded in order. -/
def foldAll (v : Hash) (bs : List Byte) : Hash := bs.foldl foldHash v

/-- Fold(b) on the state (R11, R150): writes v0..v3 only. -/
def State.fold (s : State) (b : Byte) : State := s.setV (foldHash s.V b)

/-- FoldSeq([b1, ..., bk]) on the state (R11). -/
def State.foldSeq (s : State) (bs : List Byte) : State := bs.foldl State.fold s

/-! ## The limb multiply-with-carry datapath (R152), equal to the fold by R153; only its result is architectural (R154) -/

/-- The temporaries of the datapath, t0 as computed and t1, t2, t3 after their carry in (R152, R153). They live within one
fold and are no state (R37). -/
structure LimbTemps where
  t0 : Nat
  t1 : Nat
  t2 : Nat
  t3 : Nat
deriving DecidableEq, Repr

/-- w0 = v0 ^ zext_16(b) (R151, R152). -/
def limbXor (v0 : Limb) (b : Byte) : Limb := v0 ^^^ b.setWidth 16

/-- The partial products, the shifted additions and the carry chain of R152. -/
def limbTemps (v0 v1 v2 v3 : Limb) (b : Byte) : LimbTemps :=
  let w0 := (limbXor v0 b).toNat
  let t0 := Config.primeLow * w0
  let t1 := Config.primeLow * v1.toNat + t0 >>> 16
  let t2 := Config.primeLow * v2.toNat + w0 <<< 8 + t1 >>> 16
  let t3 := Config.primeLow * v3.toNat + v1.toNat <<< 8 + t2 >>> 16
  { t0 := t0, t1 := t1, t2 := t2, t3 := t3 }

/-- LimbFold(b) (R152): each limb takes bits 15:0 of its temporary. -/
def State.limbFold (s : State) (b : Byte) : State :=
  let t := limbTemps s.v0 s.v1 s.v2 s.v3 b
  { s with
    v0 := BitVec.ofNat 16 t.t0
    v1 := BitVec.ofNat 16 t.t1
    v2 := BitVec.ofNat 16 t.t2
    v3 := BitVec.ofNat 16 t.t3 }

/-! ## FOLD -/

/-- FOLD b8 (R155): AFTER_END when DONE = 1, else FOLD_PENDING when PV = 1, else one fold of the raw byte. -/
def execFold (b : Byte) (s : State) : Host.Outcome State Fault Refusal :=
  match s.sequenceError (.fold b) with
  | some c => .next (s.cmdError c)
  | none => .next (s.fold b)

end Sys2Proof.Machine
end

