-- ==== Sys2Proof/Machine/Producer.lean ====
section
/-! DEFINITION. The UTF-8 byte producer: the encoding functions (R121 to R125), UNIT (R126) and END (R127). -/

namespace Sys2Proof.Machine

/-! ## The encoding functions -/

/-- The continuation byte 0x80 | x of six payload bits. -/
def continuation (x : BitVec 6) : Byte := 0x80#8 ||| x.setWidth 8

/-- One-byte form (R121). -/
def enc1 (c : CodeUnit) : List Byte := [lowByte c]

/-- Two-byte form (R122). -/
def enc2 (c : CodeUnit) : List Byte :=
  [0xC0#8 ||| (c.extractLsb' 6 5).setWidth 8, continuation (c.extractLsb' 0 6)]

/-- Three-byte form (R123), for a lone surrogate too (R130). -/
def enc3 (c : CodeUnit) : List Byte :=
  [0xE0#8 ||| (c.extractLsb' 12 4).setWidth 8, continuation (c.extractLsb' 6 6), continuation (c.extractLsb' 0 6)]

/-- The code point of a surrogate pair (R124): 0x10000 + (hi[9:0] << 10) + lo[9:0]. -/
def pair (hi lo : CodeUnit) : CodePoint :=
  0x10000#21 + (hi.extractLsb' 0 10).setWidth 21 <<< 10 + (lo.extractLsb' 0 10).setWidth 21

/-- Four-byte form (R124). -/
def enc4 (cp : CodePoint) : List Byte :=
  [0xF0#8 ||| (cp.extractLsb' 18 3).setWidth 8, continuation (cp.extractLsb' 12 6),
   continuation (cp.extractLsb' 6 6), continuation (cp.extractLsb' 0 6)]

/-- A code unit encoded on its own (R120): ONE, TWO, or three bytes for THREE and for a lone surrogate. -/
def encodeAlone (u : CodeUnit) : List Byte :=
  if isOne u then enc1 u else if isTwo u then enc2 u else enc3 u

/-- E(units), the byte sequence of a whole input (R125): a HIGH pairs with the very next unit if that is a LOW. -/
def encodeUnits : List CodeUnit → List Byte
  | [] => []
  | [u] => encodeAlone u
  | u :: lo :: rest =>
    if isHigh u && isLow lo then enc4 (pair u lo) ++ encodeUnits rest
    else encodeAlone u ++ encodeUnits (lo :: rest)

/-! ## UNIT and END -/

/-- The last part of UNIT (R126): `u` as a fresh unit, nothing pending. A HIGH waits; any other unit is folded at once. -/
def State.freshUnit (s : State) (u : CodeUnit) : State :=
  if isHigh u then s.setPending u
  else if isOne u then s.fold (lowByte u)
  else if isTwo u then s.foldSeq (enc2 u)
  else s.foldSeq (enc3 u)

/-- UNIT's effect when it is not rejected (R126): a pending HIGH is completed by a LOW, and is lone before anything else. -/
def State.acceptUnit (s : State) (u : CodeUnit) : State :=
  if s.pv then
    if isLow u then (s.foldSeq (enc4 (pair s.pend u))).clearPending
    else ((s.foldSeq (enc3 s.pend)).clearPending).freshUnit u
  else s.freshUnit u

/-- UNIT u16 (R126): AFTER_END when DONE = 1; no value of `u` is ever rejected (R129). -/
def execUnit (u : CodeUnit) (s : State) : Host.Outcome State Fault Refusal :=
  match s.sequenceError (.unit u) with
  | some c => .next (s.cmdError c)
  | none => .next (s.acceptUnit u)

/-- The pending HIGH, if there is one, is lone and is folded (R127); PV and PEND are cleared. -/
def State.flushPending (s : State) : State :=
  (if s.pv then s.foldSeq (enc3 s.pend) else s).clearPending

/-- END (R127): the pending HIGH is flushed, and the input is closed. Legal in every state. -/
def execEndInput (s : State) : Host.Outcome State Fault Refusal := .next (s.flushPending.setDone true)

/-! ## The bytes each command folds (R126's and R127's byte tables), for statements about the produced stream -/

/-- The bytes one accepted UNIT folds, from PV, PEND and the unit. -/
def unitBytes (pv : Bool) (pend u : CodeUnit) : List Byte :=
  if pv then
    if isLow u then enc4 (pair pend u)
    else enc3 pend ++ (if isHigh u then [] else encodeAlone u)
  else if isHigh u then [] else encodeAlone u

/-- The bytes END folds. -/
def endBytes (pv : Bool) (pend : CodeUnit) : List Byte := if pv then enc3 pend else []

end Sys2Proof.Machine
end

