-- ==== Sys2Proof/Machine/Digest.lean ====
section
/-! DEFINITION. INIT (R180) and NOP (R181), the digest's rendering (R182, R183), the digest function (R185), and the read port
(R21, R57). -/

namespace Sys2Proof.Machine

/-! ## INIT and NOP -/

/-- INIT (R180): the basis, nothing pending, a digest open, no rejection on record. HEXR keeps its value (R29). -/
def execInit (s : State) : Host.Outcome State Fault Refusal :=
  .next ((s.setBasis.clearPending.setDone false).clearError)

/-- NOP (R181): nothing is read and nothing is written. -/
def execNop (s : State) : Host.Outcome State Fault Refusal := .next s

/-! ## Rendering -/

/-- Byte `k` of V, most significant first: V[63-8k : 56-8k] (R30, R51). -/
def hashByte (v : Hash) (k : Nat) : Byte := v.extractLsb' (56 - 8 * k) 8

/-- DigestBytes(V) (R182): each limb from v3 down to v0, its high byte before its low byte. -/
def digestBytes (v : Hash) : List Byte :=
  [highByte (limbOf 3 v), lowByte (limbOf 3 v), highByte (limbOf 2 v), lowByte (limbOf 2 v),
   highByte (limbOf 1 v), lowByte (limbOf 1 v), highByte (limbOf 0 v), lowByte (limbOf 0 v)]

/-- hexstr(b) (R183): the two character codes of HEX(b), the one in bits 15:8 first (R53). -/
def hexstr (b : Byte) : List Byte := [highByte (hex b), lowByte (hex b)]

/-- Digest(V) (R183), as the ASCII codes of its characters (R101). -/
def digestCodes (v : Hash) : List Byte := (digestBytes v).flatMap hexstr

/-- Digest(V) (R183), as characters. -/
def digestString (v : Hash) : List Char := (digestCodes v).map fun c => Char.ofNat c.toNat

/-- The source's digest(text) (R185): the final hash of E(text) from the offset basis, rendered. -/
def digest (text : List CodeUnit) : List Char :=
  digestString (foldAll Config.offsetBasis (encodeUnits text))

/-! ## The read port -/

/-- Rd(a) (R21, R57): every address is decoded, and 0x7 is reserved and reads 0x0000 (R31). The digest words are computed from
the current limbs through the hex ROM (R30). -/
def State.rd (s : State) (a : RdAddr) : RdData :=
  if a = 0x0#4 then s.v0
  else if a = 0x1#4 then s.v1
  else if a = 0x2#4 then s.v2
  else if a = 0x3#4 then s.v3
  else if a = 0x4#4 then s.status
  else if a = 0x5#4 then s.pend
  else if a = 0x6#4 then s.hexr
  else if a = 0x7#4 then 0x0000#16
  else hex (hashByte s.V (a.toNat - 8))

/-- READDIG (R79): the addresses of DIG0, ..., DIG7 in order. -/
def digAddrs : List RdAddr := [0x8#4, 0x9#4, 0xA#4, 0xB#4, 0xC#4, 0xD#4, 0xE#4, 0xF#4]

/-- The characters a host assembles from words of the read port, each word's high byte before its low byte (R53, R184). -/
def charsOfWords (ws : List RdData) : List Char :=
  ws.flatMap fun w => [Char.ofNat (highByte w).toNat, Char.ofNat (lowByte w).toNat]

end Sys2Proof.Machine
end

