-- ==== Sys2Proof/Machine/Dispatch.lean ====
section
/-! DEFINITION. One arm per command (R73): which meaning a decoded command has. -/

namespace Sys2Proof.Machine

def exec (i : Instr) (s : State) : Host.Outcome State Fault Refusal :=
  match i with
  | .nop => Sys2Proof.Machine.execNop s
  | .init => Sys2Proof.Machine.execInit s
  | .unit u => Sys2Proof.Machine.execUnit u s
  | .endInput => Sys2Proof.Machine.execEndInput s
  | .fold b => Sys2Proof.Machine.execFold b s
  | .hexb b => Sys2Proof.Machine.execHexb b s

end Sys2Proof.Machine
end

