-- ==== Sys2Proof/Machine/Port.lean ====
section
/-! DEFINITION. The two ports and the reset input (R3, R50, R60): one event of the host at a time, each one indivisible step
(R58). -/

namespace Sys2Proof.Machine

/-- One word on the command port (R70, R76): the command it decodes to is executed, and a word that is no command is rejected
with its cause (R201). -/
def applyWord (w : Word) (s : State) : Host.Outcome State Fault Refusal :=
  match decode w with
  | .cmd i => exec i s
  | .reject c => .next (s.cmdError c)

/-- One access to the read port (R57): the value returned is recorded, and the core's state is not touched. -/
def applyRead (a : RdAddr) (s : State) : Host.Outcome State Fault Refusal :=
  .next (s.logRead { addr := a, data := s.rd a })

/-- One event of the host. -/
def applyEvent (e : HostEvent) (s : State) : Host.Outcome State Fault Refusal :=
  match e with
  | .command w => applyWord w s
  | .read a => applyRead a s
  | .reset => .next s.applyReset

/-- The host's next event takes effect; while the host does nothing, the core holds its state (R215). -/
def serveHost (s : State) : Host.Outcome State Fault Refusal :=
  match s.takeEvent with
  | none => .next s
  | some (e, t) => applyEvent e t

/-- A list of command words applied in order, stopping where one does not answer a next state. -/
def applyWords : List Word → State → Host.Outcome State Fault Refusal
  | [], s => .next s
  | w :: ws, s =>
    match applyWord w s with
    | .next t => applyWords ws t
    | .fault r => .fault r
    | .refused r => .refused r

/-- A list of commands executed in order, stopping where one does not answer a next state. -/
def execAll : List Instr → State → Host.Outcome State Fault Refusal
  | [], s => .next s
  | i :: is, s =>
    match exec i s with
    | .next t => execAll is t
    | .fault r => .fault r
    | .refused r => .refused r

/-- The bytes a command folds in a state, in order (R126's and R127's byte tables, R155): none when it is rejected. -/
def bytesFolded (i : Instr) (s : State) : List Byte :=
  match s.sequenceError i with
  | some _ => []
  | none =>
    match i with
    | .nop => []
    | .init => []
    | .unit u => unitBytes s.pv s.pend u
    | .endInput => endBytes s.pv s.pend
    | .fold b => [b]
    | .hexb _ => []

/-- The bytes a list of commands folds, in order, from a state on (R128). -/
def foldedBytes : List Instr → State → List Byte
  | [], _ => []
  | i :: is, s =>
    bytesFolded i s ++
    match exec i s with
    | .next t => foldedBytes is t
    | .fault _ => []
    | .refused _ => []

/-- The commands of DIGEST "text" (R79, R185): INIT, one UNIT per code unit, END. -/
def digestCommands (text : List CodeUnit) : List Instr := .init :: (text.map .unit ++ [.endInput])

/-- One word delivered by a narrower bus as four bytes, in the open order CMD_BYTE_ORDER (R9, R54): the core sees only the
32-bit word. -/
def applyBytes (bytes : Fin 4 → Byte) (s : State) : Host.Outcome State Fault Refusal :=
  applyWord (cmdWordOfBytes bytes) s

end Sys2Proof.Machine
end

