-- ==== Sys2Proof/Machine/Step.lean ====
section
/-! DEFINITION. One step: the next event of the host takes effect (R60). -/

namespace Sys2Proof.Machine

/-- One step of the machine. -/
def step (s : State) : Host.Outcome State Fault Refusal := serveHost s

/-- The host's next event is the command word whose bits are `w` (log entry 1): the core fetches nothing, so the word is put
at the head of the host's stream, and what the host does after it stays. -/
def State.withFetchWord (s : State) (nbits w : Nat) : State :=
  s.setHostIn (.command (wordOfBits nbits w) :: s.hostIn)

end Sys2Proof.Machine
end

