-- ==== Sys2Proof/Machine/Assembly.lean ====
section
/-! DEFINITION. The assembler (R78) and the pseudo-instructions (R79): from the characters of a line to what the host does.
No step of the core uses it; it is how programs and tests are spelled. Text is a list of characters, so that the kernel can
evaluate it. Points the rules leave open are in log entry 4. -/

namespace Sys2Proof.Machine

/-! ## From an assembly line to host events -/

/-- The UTF-16 code units of a character (R79): one unit, or above U+FFFF the two surrogates, high first. -/
def utf16 (c : Char) : List CodeUnit :=
  if c.toNat ≤ 0xFFFF then [BitVec.ofNat 16 c.toNat]
  else
    [0xD800#16 + BitVec.ofNat 16 ((c.toNat - 0x10000) / 0x400),
     0xDC00#16 + BitVec.ofNat 16 ((c.toNat - 0x10000) % 0x400)]

/-- The code units of a text, in order. -/
def utf16Text (s : List Char) : List CodeUnit := s.flatMap utf16

/-- The host writes this command's word. -/
def emit (i : Instr) : HostEvent := .command (encode i)

/-- UNIT with a number as its operand. -/
def emitUnit (n : Nat) : HostEvent := emit (.unit (BitVec.ofNat 16 n))

/-- FOLD with a number as its operand. -/
def emitFold (n : Nat) : HostEvent := emit (.fold (BitVec.ofNat 8 n))

/-- TEXT "s" (R79). -/
def expandText (s : List Char) : List HostEvent := (utf16Text s).map fun u => emit (.unit u)

/-- READDIG (R79). -/
def expandReaddig : List HostEvent := digAddrs.map .read

/-- The expansion of a line whose operands are in range. -/
def expandLine : AsmLine → List HostEvent
  | .blank => []
  | .nop => [emit .nop]
  | .init => [emit .init]
  | .unit n => [emitUnit n]
  | .unitChar c => [emitUnit c.toNat]
  | .endInput => [emit .endInput]
  | .fold n => [emitFold n]
  | .hexb n => [emit (.hexb (BitVec.ofNat 8 n))]
  | .word n => [.command (BitVec.ofNat 32 n)]
  | .rd a => [.read a]
  | .text s => expandText s
  | .digest s => emit .init :: (expandText s ++ [emit .endInput])
  | .units us => us.map emitUnit
  | .bytes bs => bs.map emitFold
  | .readdig => expandReaddig

/-- The assembler refuses an operand out of range, and then emits no word (R78). -/
def assembleLine (l : AsmLine) : Option (List HostEvent) := if l.wf then some (expandLine l) else none

/-! ## From the characters of a line to an assembly line -/

/-- A blank character between words. -/
def isBlankChar (c : Char) : Bool := decide (c = ' ') || decide (c = '\t')

/-- A character with a lowercase ASCII letter made upper case: mnemonics are case-insensitive (R78). -/
def upperChar (c : Char) : Char := if 'a' ≤ c ∧ c ≤ 'z' then Char.ofNat (c.toNat - 0x20) else c

/-- Blanks at both ends are dropped. -/
def trimBlanks (cs : List Char) : List Char :=
  ((cs.dropWhile isBlankChar).reverse.dropWhile isBlankChar).reverse

/-- `;` starts a comment (R78), but for one inside a quoted text or a character literal (log entry 4). The flag says whether
a quoted text is open. -/
def stripComment : Bool → List Char → List Char
  | _, [] => []
  | true, '"' :: rest => '"' :: stripComment false rest
  | true, c :: rest => c :: stripComment true rest
  | false, ';' :: _ => []
  | false, '"' :: rest => '"' :: stripComment true rest
  | false, '\'' :: c :: '\'' :: rest => '\'' :: c :: '\'' :: stripComment false rest
  | false, c :: rest => c :: stripComment false rest

/-- The value of a digit in a base of at most 16. -/
def digitValue (base : Nat) (c : Char) : Option Nat :=
  let v :=
    if '0' ≤ c ∧ c ≤ '9' then c.toNat - 0x30
    else if 'a' ≤ c ∧ c ≤ 'f' then c.toNat - 0x61 + 10
    else if 'A' ≤ c ∧ c ≤ 'F' then c.toNat - 0x41 + 10
    else 16
  if v < base then some v else none

/-- Digits read from the left onto an accumulator. -/
def readDigits (base : Nat) : Nat → List Char → Option Nat
  | acc, [] => some acc
  | acc, c :: rest =>
    match digitValue base c with
    | some v => readDigits base (acc * base + v) rest
    | none => none

/-- A hexadecimal number `0x...`, or a decimal number (R78); at least one digit. -/
def parseNumber : List Char → Option Nat
  | [] => none
  | ['0', 'x'] => none
  | '0' :: 'x' :: ds => readDigits 16 0 ds
  | ds => readDigits 10 0 ds

/-- The pieces between commas. -/
def splitCommas : List Char → List (List Char)
  | [] => [[]]
  | ',' :: rest => [] :: splitCommas rest
  | c :: rest =>
    match splitCommas rest with
    | [] => [[c]]
    | p :: ps => (c :: p) :: ps

/-- A list of numbers separated by commas. -/
def parseNumbers (cs : List Char) : Option (List Nat) :=
  ((splitCommas cs).map trimBlanks).mapM parseNumber

/-- A quoted text: the characters between the two double quotes, none of them a double quote (log entry 4). -/
def parseQuoted : List Char → Option (List Char)
  | '"' :: rest =>
    match rest.reverse with
    | '"' :: body => if body.contains '"' then none else some body.reverse
    | _ => none
  | _ => none

/-- The read addresses by name (R78, R21), and the reserved one by its number. -/
def parseRdName (cs : List Char) : Option RdAddr :=
  if cs = ['V', '0'] then some 0x0#4
  else if cs = ['V', '1'] then some 0x1#4
  else if cs = ['V', '2'] then some 0x2#4
  else if cs = ['V', '3'] then some 0x3#4
  else if cs = ['S', 'T', 'A', 'T', 'U', 'S'] then some 0x4#4
  else if cs = ['P', 'E', 'N', 'D'] then some 0x5#4
  else if cs = ['H', 'E', 'X', 'R'] then some 0x6#4
  else if cs = ['0', 'x', '7'] then some 0x7#4
  else match cs with
    | ['D', 'I', 'G', k] =>
      match digitValue 8 k with
      | some v => some (BitVec.ofNat 4 (8 + v))
      | none => none
    | _ => none

/-- UNIT's operand: a number, or a character literal (R78). -/
def parseUnitOperand : List Char → Option AsmLine
  | ['\'', c, '\''] => some (.unitChar c)
  | cs => (parseNumber cs).map .unit

/-- A line without operand stands alone. -/
def withoutOperand (l : AsmLine) (operand : List Char) : Option AsmLine :=
  if operand = [] then some l else none

/-- The line a mnemonic (in upper case) and its operand text spell. -/
def parseCommand (m operand : List Char) : Option AsmLine :=
  if m = [] then withoutOperand .blank operand
  else if m = ['N', 'O', 'P'] then withoutOperand .nop operand
  else if m = ['I', 'N', 'I', 'T'] then withoutOperand .init operand
  else if m = ['E', 'N', 'D'] then withoutOperand .endInput operand
  else if m = ['R', 'E', 'A', 'D', 'D', 'I', 'G'] then withoutOperand .readdig operand
  else if m = ['U', 'N', 'I', 'T'] then parseUnitOperand operand
  else if m = ['F', 'O', 'L', 'D'] then (parseNumber operand).map .fold
  else if m = ['H', 'E', 'X', 'B'] then (parseNumber operand).map .hexb
  else if m = ['.', 'W', 'O', 'R', 'D'] then (parseNumber operand).map .word
  else if m = ['R', 'D'] then (parseRdName operand).map .rd
  else if m = ['T', 'E', 'X', 'T'] then (parseQuoted operand).map .text
  else if m = ['D', 'I', 'G', 'E', 'S', 'T'] then (parseQuoted operand).map .digest
  else if m = ['U', 'N', 'I', 'T', 'S'] then (parseNumbers operand).map .units
  else if m = ['B', 'Y', 'T', 'E', 'S'] then (parseNumbers operand).map .bytes
  else none

/-- One line of assembly text, parsed. -/
def parseLine (cs : List Char) : Option AsmLine :=
  let body := trimBlanks (stripComment false cs)
  parseCommand ((body.takeWhile fun c => !isBlankChar c).map upperChar)
    (trimBlanks (body.dropWhile fun c => !isBlankChar c))

/-- One line of assembly text, assembled to what the host does. -/
def assembleText (cs : List Char) : Option (List HostEvent) := (parseLine cs).bind assembleLine

/-- The lines of a program, assembled in order; one refused line refuses the program. -/
def assembleProgram : List (List Char) → Option (List HostEvent)
  | [] => some []
  | l :: ls =>
    match assembleText l, assembleProgram ls with
    | some es, some fs => some (es ++ fs)
    | _, _ => none

end Sys2Proof.Machine
end

