-- ==== Sys2Proof/Machine/Platform.lean ====
section
/-! DEFINITION. Runs of steps, and several cores on one platform (R66, R213): each is one agent with its own state and its own host stream. They
share the hex ROM only, which is constant. -/

namespace Sys2Proof.Machine

/-- `k` steps, stopping where one does not answer a next state. -/
def runSteps : Nat → State → Host.Outcome State Fault Refusal
  | 0, s => .next s
  | k + 1, s =>
    match step s with
    | .next t => runSteps k t
    | .fault r => .fault r
    | .refused r => .refused r

/-- `n` cores. -/
abbrev Platform (n : Nat) := Vector State n

/-- Core `k` takes one step; no other core is touched. -/
def platformStep {n : Nat} (k : Fin n) (p : Platform n) : Host.Outcome (Platform n) Fault Refusal :=
  match step p[k] with
  | .next t => .next (p.set k t)
  | .fault r => .fault r
  | .refused r => .refused r

/-- The cores take steps in the order of a schedule. -/
def platformRun {n : Nat} : List (Fin n) → Platform n → Host.Outcome (Platform n) Fault Refusal
  | [], p => .next p
  | k :: ks, p =>
    match platformStep k p with
    | .next q => platformRun ks q
    | .fault r => .fault r
    | .refused r => .refused r

end Sys2Proof.Machine
end

