-- ==== Sys2Proof/Safety.lean ====
section
/-! DEFINITION. What counts as a good state and a clean run, in the terms claims use. -/

namespace Sys2Proof.Machine

/-- The invariants the rules keep (R35), the five items in order; ECODE 5..15 is never produced (R202). -/
abbrev State.Inv (s : State) : Prop :=
  (s.pv = false → s.pend = 0x0000#16) ∧
  (s.pv = true → 0xD800#16 ≤ s.pend ∧ s.pend ≤ 0xDBFF#16) ∧
  ¬ (s.pv = true ∧ s.done = true) ∧
  (s.err = false → s.ecode = 0#4) ∧
  (s.err = true → 1#4 ≤ s.ecode ∧ s.ecode ≤ 4#4)

/-- The command executes: no state check of R203 and R204 rejects it (R205). -/
def State.accepts (s : State) (i : Instr) : Bool := decide (s.sequenceError i = none)

/-- The word executes: it is a command (R76), and the state accepts it. -/
def State.acceptsWord (s : State) (w : Word) : Bool :=
  match decode w with
  | .cmd i => s.accepts i
  | .reject _ => false

/-- A clean run: every word of the list is accepted in the state it meets, the premise of claims about digests
(93_implementation_defined.md item 6). -/
def State.cleanRun (s : State) : List Word → Bool
  | [] => true
  | w :: ws =>
    s.acceptsWord w &&
    match applyWord w s with
    | .next t => t.cleanRun ws
    | .fault _ => false
    | .refused _ => false

end Sys2Proof.Machine
end

