-- ==== Sys2Proof/Certificates/Slice0/Obligations.lean ====
section
/-! DEFINITION. The statements for the provers, in the order of OBLIGATIONS.json: reset and the invariant, the step, the encoding,
the rejections, the commands, the fold, the producer, the hex table, the read port, the digest, ordering and several cores,
and the assembler. -/

open Sys2Proof Sys2Proof.Machine

/-! ## Reset, the invariant and the step -/

/-- R230, R36: after the reset event, from any state, and in the state the machine starts from, every piece of state has its
reset value; the hex ROM is unaffected: HEXB still reads the entries of the ROM as R102 lists them. -/
def Obligations.ResetGivesEveryRegisterItsValue : Prop :=
  ∀ s t : State, (t = s.applyReset ∨ t = State.reset) →
    t.V = 0xcbf29ce484222325#64 ∧
    t.v0 = 0x2325#16 ∧ t.v1 = 0x8422#16 ∧ t.v2 = 0x9ce4#16 ∧ t.v3 = 0xcbf2#16 ∧
    t.pv = false ∧ t.pend = 0x0000#16 ∧ t.done = false ∧ t.err = false ∧ t.ecode = 0#4 ∧ t.hexr = 0x0000#16 ∧
    ∀ b : Byte, ∃ u, exec (.hexb b) t = .next u ∧ hexRom[b.toNat]? = some u.hexr

/-- The spec's own inference R231: after reset the core is in the state INIT leaves, units may be fed at once, and the digest
words spell the digest of the empty input. That neither the reset event nor INIT touches the host's stream and read log is the
model's own (log entries 1, 2 and 5). -/
def Obligations.ResetIsTheStateInitLeaves : Prop :=
  exec .init State.reset = .next State.reset ∧
  (∀ s t : State, exec .init s = .next t → s.hexr = 0x0000#16 → t = s.applyReset) ∧
  (∀ i : Instr, State.reset.accepts i = true) ∧
  charsOfWords (digAddrs.map State.reset.rd) =
    ['c', 'b', 'f', '2', '9', 'c', 'e', '4', '8', '4', '2', '2', '2', '3', '2', '5']

/-- The reset state meets the invariant (the spec's own inference R35). -/
def Obligations.ResetMeetsTheInvariant : Prop := State.Inv State.reset

/-- The spec's own inference R35: a step from any state that meets the five invariants ends in one that meets them. -/
def Obligations.EveryStepKeepsTheInvariant : Prop :=
  ∀ s t : State, s.Inv → step s = .next t → t.Inv

/-- No word, no command, no read and no reset stops the core (60_exceptions.md section 2, "does not stop the core"): every step
from every state answers a next state. The stream of host events is the model's own (log entry 1). -/
def Obligations.EveryStepAnswersANextState : Prop :=
  ∀ s : State, ∃ t, step s = .next t

/-- A step runs the decoded command: a word at the head of the host's stream (the model's own, log entry 1) that decodes to
`i` is executed as `i`, on the state whose stream has moved past that word. Nothing else is added around `exec`. -/
def Obligations.StepRunsTheDecodedCommand : Prop :=
  ∀ (s : State) (w : Word) (rest : List HostEvent) (i : Instr),
    s.hostIn = .command w :: rest → decode w = .cmd i → step s = exec i (s.setHostIn rest)

/-- The other steps, over the model's own stream and read log (log entries 1 and 2) and with reset as an event between commands
(log entry 5): a word that is no command is rejected, a
read records the read port's answer and changes nothing else, the reset input resets, and an idle core holds its state. -/
def Obligations.StepTakesTheOtherHostEvents : Prop :=
  ∀ (s : State) (rest : List HostEvent),
    (∀ w c, s.hostIn = .command w :: rest → decode w = .reject c → step s = .next ((s.setHostIn rest).cmdError c)) ∧
    (∀ a, s.hostIn = .read a :: rest →
      step s = .next { s with hostIn := rest, hostOut := s.hostOut ++ [⟨a, s.rd a⟩] }) ∧
    (s.hostIn = .reset :: rest → step s = .next ({ s with hostIn := rest }).applyReset) ∧
    (s.hostIn = [] → step s = .next s)

/-- The word the host puts in front of the stream (log entry 1) is the very next command run, for every command. -/
def Obligations.FetchWordIsTheNextCommand : Prop :=
  ∀ (s : State) (i : Instr),
    decodeTableWord 32 (encode i).toNat = some i ∧
    step (s.withFetchWord 32 (encode i).toNat) = exec i s

/-! ## The encoding -/

/-- Decode and encode agree, both ways: a word decodes to a command exactly when it is that command's word, with every operand
at every value (30_encoding.md sections 2 to 4). -/
def Obligations.DecodeAndEncodeAgree : Prop :=
  ∀ (w : Word) (i : Instr), decode w = .cmd i ↔ w = encode i

/-- Words written out from the bit patterns of R73 decode to the commands they stand for. -/
def Obligations.TableWordsDecode : Prop :=
  decode 0b00000000000000000000000000000000#32 = .cmd .nop ∧
  decode 0b00000001000000000000000000000000#32 = .cmd .init ∧
  decode 0b00000010000000001101100000111101#32 = .cmd (.unit 0xD83D#16) ∧
  decode 0b00000011000000000000000000000000#32 = .cmd .endInput ∧
  decode 0b00000100000000000000000001100001#32 = .cmd (.fold 0x61#8) ∧
  decode 0b00000101000000000000000010100101#32 = .cmd (.hexb 0xA5#8)

/-- R76: what the decoder answers, by the numbers in the three fields of the word. -/
def Obligations.DecoderFollowsTheFields : Prop :=
  ∀ o r i : Nat, o < 256 → r < 256 → i < 65536 →
    decode (BitVec.ofNat 32 (o * 2 ^ 24 + r * 2 ^ 16 + i)) =
      if 6 ≤ o then .reject .illegalOpcode
      else if r ≠ 0 then .reject .reservedField
      else if o = 0 then (if i ≠ 0 then .reject .reservedField else .cmd .nop)
      else if o = 1 then (if i ≠ 0 then .reject .reservedField else .cmd .init)
      else if o = 2 then .cmd (.unit (BitVec.ofNat 16 i))
      else if o = 3 then (if i ≠ 0 then .reject .reservedField else .cmd .endInput)
      else if o = 4 then (if i / 256 ≠ 0 then .reject .reservedField else .cmd (.fold (BitVec.ofNat 8 i)))
      else (if i / 256 ≠ 0 then .reject .reservedField else .cmd (.hexb (BitVec.ofNat 8 i)))

/-- R75: the words with OPC 0x06..0xFF, 250 opcodes, and only they, are rejected with cause code 1. -/
def Obligations.IllegalOpcodesAreRejected : Prop :=
  causeCode .illegalOpcode = 1#4 ∧
  ((List.range 256).filter fun o => decide (6 ≤ o)).length = 250 ∧
  (∀ w : Word, decode w = .reject .illegalOpcode ↔ 6 ≤ w.toNat / 2 ^ 24) ∧
  ∀ (w : Word) (s : State), 6 ≤ w.toNat / 2 ^ 24 → applyWord w s = .next (s.cmdError .illegalOpcode)

/-- R74: the words with a legal OPC and a field that breaks its constraint, and only they, are rejected with cause code 2, and
are never executed as the command their OPC names. -/
def Obligations.ReservedFieldWordsAreRejected : Prop :=
  causeCode .reservedField = 2#4 ∧
  ∀ w : Word,
    (decode w = .reject .reservedField ↔
      w.toNat / 2 ^ 24 ≤ 5 ∧
      (w.toNat / 2 ^ 16 % 2 ^ 8 ≠ 0 ∨
       ((w.toNat / 2 ^ 24 = 0 ∨ w.toNat / 2 ^ 24 = 1 ∨ w.toNat / 2 ^ 24 = 3) ∧ w.toNat % 2 ^ 16 ≠ 0) ∨
       ((w.toNat / 2 ^ 24 = 4 ∨ w.toNat / 2 ^ 24 = 5) ∧ w.toNat / 2 ^ 8 % 2 ^ 8 ≠ 0))) ∧
    ∀ s : State, decode w = .reject .reservedField → applyWord w s = .next (s.cmdError .reservedField)

/-- The checks on raw words (30_encoding.md section 4) and the decoder agree: the well-formed words are the ones that decode to a
(well-formed) command, the reserved-field words and the words with an illegal opcode the two kinds of rejection. -/
def Obligations.WellFormedWordsAreTheCommands : Prop :=
  ∀ w : Word,
    (wordWf w = true ↔ ∃ i : Instr, i.wf = true ∧ decode w = .cmd i) ∧
    (reservedFieldWord w = true ↔ decode w = .reject .reservedField) ∧
    (opcodeLegal w = false ↔ decode w = .reject .illegalOpcode) ∧
    ∀ i : Instr, wordWf (encode i) = true

/-- The spec's own inference R77: how many words decode to each command, and how many are rejected with each cause. -/
def Obligations.WordCounts : Prop :=
  {w : Word | ∃ u, decode w = .cmd (.unit u)}.ncard = 2 ^ 16 ∧
  {w : Word | ∃ b, decode w = .cmd (.fold b)}.ncard = 2 ^ 8 ∧
  {w : Word | ∃ b, decode w = .cmd (.hexb b)}.ncard = 2 ^ 8 ∧
  {w : Word | decode w = .cmd .nop}.ncard = 1 ∧
  {w : Word | decode w = .cmd .init}.ncard = 1 ∧
  {w : Word | decode w = .cmd .endInput}.ncard = 1 ∧
  {w : Word | ∃ c, decode w = .reject c}.ncard = 2 ^ 32 - 2 ^ 16 - 2 ^ 9 - 3 ∧
  {w : Word | decode w = .reject .illegalOpcode}.ncard = 250 * 2 ^ 24 ∧
  {w : Word | decode w = .reject .reservedField}.ncard = 2 ^ 32 - 2 ^ 16 - 2 ^ 9 - 3 - 250 * 2 ^ 24

/-! ## Rejections -/

/-- R201, R208: a rejected word changes ERR and ECODE only, keeps the first cause, changes nothing at all while ERR = 1, and
does not change what a later command does but through ERR and ECODE. -/
def Obligations.RejectionLeavesNoOtherEffect : Prop :=
  (∀ (w : Word) (c : Cause) (s : State),
    (decode w = .reject c ∨ ∃ i, decode w = .cmd i ∧ s.sequenceError i = some c) →
      applyWord w s = .next { s with err := true, ecode := if s.err = true then s.ecode else causeCode c } ∧
      (s.err = true → applyWord w s = .next s)) ∧
  ∀ (v : Word) (c : Cause) (s : State), ∃ t u, applyWord v s = .next t ∧ applyWord v (s.cmdError c) = .next u ∧
    u.V = t.V ∧ u.pv = t.pv ∧ u.pend = t.pend ∧ u.done = t.done ∧ u.hexr = t.hexr

/-- R25, R203, R204: DONE is 1 after END and 0 after INIT and reset; UNIT and FOLD are rejected with code 4 while DONE = 1; FOLD
is rejected while PV = 1, with code 3 unless DONE = 1; HEXB, NOP, END and INIT do not depend on DONE. -/
def Obligations.SequencingRejections : Prop :=
  causeCode .afterEnd = 4#4 ∧ causeCode .foldPending = 3#4 ∧
  (∀ s t : State, exec .endInput s = .next t → t.done = true) ∧
  (∀ s t : State, exec .init s = .next t → t.done = false) ∧ (∀ s : State, s.applyReset.done = false) ∧
  (∀ (s : State) (u : CodeUnit), s.done = true → exec (.unit u) s = .next (s.cmdError .afterEnd)) ∧
  (∀ (s : State) (b : Byte), s.done = true → exec (.fold b) s = .next (s.cmdError .afterEnd)) ∧
  (∀ (s : State) (b : Byte), s.pv = true → s.done = false → exec (.fold b) s = .next (s.cmdError .foldPending)) ∧
  ∀ (s : State) (d : Bool),
    exec .init (s.setDone d) = exec .init s ∧ exec .endInput (s.setDone d) = exec .endInput s ∧
    exec .nop (s.setDone d) = .next (s.setDone d) ∧
    ∀ b : Byte, exec (.hexb b) (s.setDone d) = .next ((s.setHexr (hex b)).setDone d)

/-- R205: the four checks are made in the order 1, 2, 4, 3, and a word that meets none of them executes; the last two never
hold together in a state that meets the invariant. -/
def Obligations.ChecksAreMadeInOrder : Prop :=
  ∀ (w : Word) (s : State) (o : Nat) (reserved : Prop),
    o = w.toNat / 2 ^ 24 →
    (reserved ↔ w.toNat / 2 ^ 16 % 2 ^ 8 ≠ 0 ∨ ((o = 0 ∨ o = 1 ∨ o = 3) ∧ w.toNat % 2 ^ 16 ≠ 0) ∨
      ((o = 4 ∨ o = 5) ∧ w.toNat / 2 ^ 8 % 2 ^ 8 ≠ 0)) →
    (6 ≤ o → applyWord w s = .next (s.cmdError .illegalOpcode)) ∧
    (o < 6 → reserved → applyWord w s = .next (s.cmdError .reservedField)) ∧
    ((o = 2 ∨ o = 4) → ¬ reserved → s.done = true → applyWord w s = .next (s.cmdError .afterEnd)) ∧
    (o = 4 → ¬ reserved → s.done = false → s.pv = true → applyWord w s = .next (s.cmdError .foldPending)) ∧
    (o < 6 → ¬ reserved → ¬ ((o = 2 ∨ o = 4) ∧ s.done = true) → ¬ (o = 4 ∧ s.pv = true) →
      ∃ i, decode w = .cmd i ∧ s.sequenceError i = none ∧ applyWord w s = exec i s) ∧
    (s.Inv → ¬ (s.done = true ∧ s.pv = true))

/-- R207: ERR and ECODE are cleared by INIT and reset only, INIT restarts the digest as it clears them, and ERR = 0 at the end
of words without an INIT says that none of them was rejected. -/
def Obligations.OnlyInitAndResetClearTheRecord : Prop :=
  (∀ (w : Word) (s t : State), s.err = true → decode w ≠ .cmd .init → applyWord w s = .next t →
    t.err = true ∧ t.ecode = s.ecode) ∧
  (∀ s t : State, exec .init s = .next t →
    t.err = false ∧ t.ecode = 0#4 ∧ t.V = 0xcbf29ce484222325#64 ∧ t.done = false ∧ t.pv = false) ∧
  (∀ s : State, s.applyReset.err = false ∧ s.applyReset.ecode = 0#4) ∧
  ∀ (ws : List Word) (s t : State), (∀ w ∈ ws, decode w ≠ .cmd .init) → applyWords ws s = .next t → t.err = false →
    s.err = false ∧ s.cleanRun ws = true

/-! ## The commands -/

/-- R181: NOP, the all-zero word, changes nothing in any state; a non-zero word with OPC 0x00 is rejected with code 2; the
rule's example. -/
def Obligations.NopDoesNothing : Prop :=
  (∀ s : State, exec .nop s = .next s ∧ applyWord 0x00000000#32 s = .next s) ∧
  causeCode .reservedField = 2#4 ∧
  (∀ (w : Word) (s : State), w.toNat < 2 ^ 24 → w ≠ 0x00000000#32 → applyWord w s = .next (s.cmdError .reservedField)) ∧
  ∃ t, exec (.unit 0xD83D#16) State.reset = .next t ∧ exec .nop t = .next t ∧ t.rd 0x4#4 = 0x0001#16 ∧
    t.rd 0x5#4 = 0xD83D#16

/-- R180: INIT restores the basis, discards a pending unit, opens a digest and clears ERR and ECODE in every state, and keeps
everything else, HEXR among it; it is idempotent, changes nothing after reset, and a spoiled INIT word initialises nothing. -/
def Obligations.InitStartsANewDigest : Prop :=
  (∀ s : State, ∃ t, exec .init s = .next t ∧ applyWord 0x01000000#32 s = .next t ∧ exec .init t = .next t ∧
    t = { s with v3 := 0xcbf2#16, v2 := 0x9ce4#16, v1 := 0x8422#16, v0 := 0x2325#16, pv := false, pend := 0x0000#16,
                 done := false, err := false, ecode := 0#4 } ∧
    t.V = 0xcbf29ce484222325#64 ∧
    t.rd 0x3#4 = 0xcbf2#16 ∧ t.rd 0x2#4 = 0x9ce4#16 ∧ t.rd 0x1#4 = 0x8422#16 ∧ t.rd 0x0#4 = 0x2325#16 ∧
    t.rd 0x4#4 = 0x0000#16) ∧
  exec .init State.reset = .next State.reset ∧
  causeCode .reservedField = 2#4 ∧
  ∀ (w : Word) (s : State), w.toNat / 2 ^ 24 = 1 → w ≠ 0x01000000#32 → applyWord w s = .next (s.cmdError .reservedField)

/-- R103: HEXB writes HEX(b) into HEXR in every state and changes nothing else; a spoiled HEXB word is rejected with code 2 and
keeps HEXR; the corner values and the example of the rule. -/
def Obligations.HexbWritesTheTwoCharacters : Prop :=
  (∀ (s : State) (b : Byte), exec (.hexb b) s = .next { s with hexr := hex b } ∧
    applyWord (BitVec.ofNat 32 (0x05000000 + b.toNat)) s = exec (.hexb b) s) ∧
  (∀ (s t : State) (b : Byte) (a : RdAddr), exec (.hexb b) s = .next t → a ≠ 0x6#4 → t.rd a = s.rd a) ∧
  causeCode .reservedField = 2#4 ∧
  (∀ (w : Word) (s : State), w.toNat / 2 ^ 24 = 5 → w.toNat / 2 ^ 8 % 2 ^ 16 ≠ 0 →
    applyWord w s = .next (s.cmdError .reservedField) ∧ (s.cmdError .reservedField).hexr = s.hexr) ∧
  hex 0x00#8 = 0x3030#16 ∧ hex 0x05#8 = 0x3035#16 ∧ hex 0x09#8 = 0x3039#16 ∧ hex 0x0A#8 = 0x3061#16 ∧
  hex 0xFF#8 = 0x6666#16 ∧
  ∀ s t : State, applyWord 0x050000A5#32 s = .next t → t.rd 0x6#4 = 0x6135#16

/-- FOLD (42_accumulator.md section 2): with the input open and nothing pending it folds its byte, whatever the byte, and
changes nothing but the limbs; it is rejected after END and while a unit is pending; a spoiled word is rejected. -/
def Obligations.FoldFoldsTheRawByte : Prop :=
  (∀ (s : State) (b : Byte), s.done = false → s.pv = false →
    ∃ t, exec (.fold b) s = .next t ∧ t.V = (s.V ^^^ b.setWidth 64) * 0x100000001b3#64 ∧
      t = { s with v0 := t.v0, v1 := t.v1, v2 := t.v2, v3 := t.v3 }) ∧
  (∀ (s : State) (b : Byte), s.done = true → exec (.fold b) s = .next (s.cmdError .afterEnd)) ∧
  (∀ (s : State) (b : Byte), s.done = false → s.pv = true → exec (.fold b) s = .next (s.cmdError .foldPending)) ∧
  (∀ (s : State) (b : Byte), applyWord (BitVec.ofNat 32 (0x04000000 + b.toNat)) s = exec (.fold b) s) ∧
  ∀ (w : Word) (s : State), w.toNat / 2 ^ 24 = 4 → w.toNat / 2 ^ 8 % 2 ^ 16 ≠ 0 →
    applyWord w s = .next (s.cmdError .reservedField)

/-- UNIT (41_utf8_producer.md section 2): with the input open it folds the bytes the unit completes, sets or clears the
pending surrogate, and changes nothing else, for every unit and every pending state; after END it is rejected. Where nothing
is pending and the unit is no HIGH, PV and PEND are not written. -/
def Obligations.UnitFoldsWhatItCompletes : Prop :=
  (∀ (s : State) (u : CodeUnit), s.done = true → exec (.unit u) s = .next (s.cmdError .afterEnd)) ∧
  (∀ (s : State) (u : CodeUnit), applyWord (BitVec.ofNat 32 (0x02000000 + u.toNat)) s = exec (.unit u) s) ∧
  ∀ (s : State) (u : CodeUnit) (high low : Prop) (fresh : List Byte),
    (high ↔ 0xD800 ≤ u.toNat ∧ u.toNat ≤ 0xDBFF) → (low ↔ 0xDC00 ≤ u.toNat ∧ u.toNat ≤ 0xDFFF) →
    fresh = (if u.toNat < 0x80 then enc1 u else if u.toNat < 0x800 then enc2 u else enc3 u) →
    s.done = false →
    ∃ t, exec (.unit u) s = .next t ∧
      (s.pv = true → low → t.V = foldAll s.V (enc4 (pair s.pend u)) ∧ t.pv = false ∧ t.pend = 0x0000#16) ∧
      (s.pv = true → high → t.V = foldAll s.V (enc3 s.pend) ∧ t.pv = true ∧ t.pend = u) ∧
      (s.pv = true → ¬ low → ¬ high →
        t.V = foldAll s.V (enc3 s.pend ++ fresh) ∧ t.pv = false ∧ t.pend = 0x0000#16) ∧
      (s.pv = false → high → t.V = s.V ∧ t.pv = true ∧ t.pend = u) ∧
      (s.pv = false → ¬ high → t.V = foldAll s.V fresh ∧ t.pv = false ∧ t.pend = s.pend) ∧
      t = { s with v0 := t.v0, v1 := t.v1, v2 := t.v2, v3 := t.v3, pv := t.pv, pend := t.pend }

/-- The spec's own inferences in R120 and in the byte table of R126: every unit has exactly one class, and the class and PV
give how many bytes a UNIT folds, at most six, and PV after it. The bytes counted are the ones folded. -/
def Obligations.UnitByteCounts : Prop :=
  (∀ u : CodeUnit, [isOne u, isTwo u, isThree u, isHigh u, isLow u].count true = 1) ∧
  (∀ (i : Instr) (s t : State), i ≠ .init → exec i s = .next t → t.V = foldAll s.V (bytesFolded i s)) ∧
  ∀ (s t : State) (u : CodeUnit), s.done = false → exec (.unit u) s = .next t →
    t.pv = isHigh u ∧ (bytesFolded (.unit u) s).length ≤ 6 ∧
    (bytesFolded (.unit u) s).length =
      (if s.pv then
        (if isLow u then 4 else if isOne u then 4 else if isTwo u then 5 else if isThree u then 6 else 3)
       else (if isOne u then 1 else if isTwo u then 2 else if isHigh u then 0 else 3))

/-- R127: END is legal in every state; it folds the three bytes of a pending HIGH, clears it, sets DONE, and changes nothing
else; it changes nothing when the input is closed already; the rule's corner cases and example. -/
def Obligations.EndClosesTheInput : Prop :=
  (∀ s : State, ∃ t, exec .endInput s = .next t ∧ applyWord 0x03000000#32 s = .next t ∧
    t.V = (if s.pv = true then foldAll s.V (enc3 s.pend) else s.V) ∧
    t = { s with v0 := t.v0, v1 := t.v1, v2 := t.v2, v3 := t.v3, pv := false, pend := 0x0000#16, done := true }) ∧
  (∀ s : State, s.Inv → s.done = true → exec .endInput s = .next s) ∧
  (∀ s t : State, exec .init s = .next t → ∃ u, exec .endInput t = .next u ∧ u.V = 0xcbf29ce484222325#64) ∧
  enc3 0xD83D#16 = [0xED#8, 0xA0#8, 0xBD#8] ∧
  ∃ t u, exec (.unit 0xD83D#16) State.reset = .next t ∧ exec .endInput t = .next u ∧
    u.V = 0x5bef901b8ab02d6f#64 ∧ u.rd 0x4#4 = 0x0002#16

/-- R129: UNIT accepts every 16-bit value while the input is open, and produces bytes for it; what UNIT is rejected for never
depends on the value. -/
def Obligations.EveryCodeUnitIsAccepted : Prop :=
  (∀ (s : State) (u : CodeUnit), s.done = false →
    ∃ t, exec (.unit u) s = .next t ∧ t.err = s.err ∧ t.ecode = s.ecode) ∧
  (∀ (s : State) (u v : CodeUnit), s.sequenceError (.unit u) = s.sequenceError (.unit v)) ∧
  ∀ us : List CodeUnit, us ≠ [] → encodeUnits us ≠ []

/-- R130: a lone surrogate, at the end of the input, before a unit that is no LOW, or a LOW on its own, is folded as the three
bytes of its raw value: it is not rejected, not skipped, and not replaced by U+FFFD. -/
def Obligations.LoneSurrogatesKeepTheirValue : Prop :=
  (∀ u : CodeUnit, (isHigh u = true ∨ isLow u = true) → encodeUnits [u] = enc3 u ∧ enc3 u ≠ enc3 0xFFFD#16) ∧
  (∀ (s : State) (u : CodeUnit), s.done = false → s.pv = false → isLow u = true →
    ∃ t, exec (.unit u) s = .next t ∧ t.V = foldAll s.V (enc3 u) ∧ t.err = s.err) ∧
  (∀ (s : State) (u : CodeUnit), s.done = false → s.pv = true → isLow u = false →
    ∃ t, exec (.unit u) s = .next t ∧ t.err = s.err ∧
      t.V = foldAll (foldAll s.V (enc3 s.pend)) (if isHigh u then [] else encodeUnits [u])) ∧
  ∀ s : State, s.pv = true → ∃ t, exec .endInput s = .next t ∧ t.V = foldAll s.V (enc3 s.pend) ∧ t.err = s.err

/-- Who writes each register (10_state.md section 1, the column "written by"), over all commands: whatever a command does not
write, it leaves as it was, and a rejected command leaves all but ERR and ECODE. -/
def Obligations.WritersOfEachRegister : Prop :=
  ∀ (i : Instr) (s t : State), exec i s = .next t →
    ((i = .nop ∨ ∃ b, i = .hexb b) → t.v0 = s.v0 ∧ t.v1 = s.v1 ∧ t.v2 = s.v2 ∧ t.v3 = s.v3) ∧
    ((i = .nop ∨ (∃ b, i = .hexb b) ∨ ∃ b, i = .fold b) → t.pv = s.pv ∧ t.pend = s.pend) ∧
    (i ≠ .init → i ≠ .endInput → t.done = s.done) ∧
    (i ≠ .init → s.sequenceError i = none → t.err = s.err ∧ t.ecode = s.ecode) ∧
    ((∀ b, i ≠ .hexb b) → t.hexr = s.hexr) ∧
    (s.sequenceError i ≠ none → t = { s with err := t.err, ecode := t.ecode }) ∧
    t.hostIn = s.hostIn ∧ t.hostOut = s.hostOut

/-- The spec's own inference R59: INIT, END, NOP and HEXB are idempotent, a rejected word repeated changes nothing more, and
UNIT and FOLD are not idempotent. -/
def Obligations.IdempotentCommands : Prop :=
  (∀ (i : Instr) (s t : State), (i = .init ∨ i = .endInput ∨ i = .nop ∨ ∃ b, i = .hexb b) → exec i s = .next t →
    exec i t = .next t) ∧
  (∀ (w : Word) (s t : State), s.acceptsWord w = false → applyWord w s = .next t → applyWord w t = .next t) ∧
  (∃ s t u, exec (.unit 0x0061#16) s = .next t ∧ exec (.unit 0x0061#16) t = .next u ∧ u ≠ t) ∧
  ∃ s t u, exec (.fold 0x61#8) s = .next t ∧ exec (.fold 0x61#8) t = .next u ∧ u ≠ t

/-! ## The fold -/

/-- R150: a fold XORs its byte into the least significant eight bits of V and multiplies by the prime modulo 2^64; the limbs are
those of the new V; it depends on V and the byte alone, and writes v0..v3 only. -/
def Obligations.FoldIsXorThenMultiply : Prop :=
  ∀ (s : State) (b : Byte),
    (s.fold b).V.toNat = (s.V.toNat ^^^ b.toNat) * 0x100000001b3 % 2 ^ 64 ∧
    (s.fold b).v0 = (s.fold b).V.extractLsb' 0 16 ∧ (s.fold b).v1 = (s.fold b).V.extractLsb' 16 16 ∧
    (s.fold b).v2 = (s.fold b).V.extractLsb' 32 16 ∧ (s.fold b).v3 = (s.fold b).V.extractLsb' 48 16 ∧
    (∀ t : State, t.V = s.V → (t.fold b).V = (s.fold b).V) ∧
    s.fold b = { s with v0 := (s.fold b).v0, v1 := (s.fold b).v1, v2 := (s.fold b).v2, v3 := (s.fold b).v3 }

/-- The spec's own inferences R151 and R153: the XOR touches only the low byte of v0, and the 16-bit limb
multiply-with-carry datapath of R152 computes exactly the fold of R150. -/
def Obligations.LimbDatapathIsTheFold : Prop :=
  ∀ (s : State) (b : Byte),
    s.V ^^^ b.setWidth 64 = s.v3 ++ s.v2 ++ s.v1 ++ limbXor s.v0 b ∧
    highByte (limbXor s.v0 b) = highByte s.v0 ∧
    s.limbFold b = s.fold b

/-- The spec's own inference R153: every temporary of the datapath stays within the bound of its table, hence within 26 bits,
and the bounds are reached with every limb at 0xFFFF. -/
def Obligations.LimbTemporariesFit : Prop :=
  (∀ (v0 v1 v2 v3 : Limb) (b : Byte) (t : LimbTemps), t = limbTemps v0 v1 v2 v3 b →
    t.t0 ≤ 28507725 ∧ t.t1 ≤ 28508159 ∧ t.t2 ≤ 45285119 ∧ t.t3 ≤ 45285375 ∧
    t.t0 < 2 ^ 25 ∧ t.t1 < 2 ^ 25 ∧ t.t2 < 2 ^ 26 ∧ t.t3 < 2 ^ 26) ∧
  limbTemps 0xFFFF#16 0xFFFF#16 0xFFFF#16 0xFFFF#16 0x00#8 = ⟨28507725, 28508159, 45285119, 45285375⟩

/-- The spec's own inference R157: for each byte the fold is a bijection on hash values. -/
def Obligations.FoldIsABijection : Prop := ∀ b : Byte, Function.Bijective fun v => foldHash v b

/-! ## The byte producer -/

/-- R121, R122, R123: the one-, two- and three-byte forms, by the source's formulas on the unit's number. -/
def Obligations.OneTwoAndThreeByteForms : Prop :=
  ∀ (u : CodeUnit) (c : Nat), c = u.toNat →
    (c < 0x80 → (enc1 u).map BitVec.toNat = [c]) ∧
    (0x80 ≤ c → c < 0x800 → (enc2 u).map BitVec.toNat = [0xC0 ||| (c >>> 6), 0x80 ||| (c &&& 0x3F)]) ∧
    (enc3 u).map BitVec.toNat = [0xE0 ||| (c >>> 12), 0x80 ||| ((c >>> 6) &&& 0x3F), 0x80 ||| (c &&& 0x3F)] ∧
    (c < 0x80 → encodeAlone u = enc1 u) ∧ (0x80 ≤ c → c < 0x800 → encodeAlone u = enc2 u) ∧
    (0x800 ≤ c → encodeAlone u = enc3 u) ∧
    enc3 0xD800#16 = [0xED#8, 0xA0#8, 0x80#8] ∧
    (0x80 ≤ c → c < 0x800 → ∀ lead ∈ (enc2 u).head?, 0xC2 ≤ lead.toNat ∧ lead.toNat ≤ 0xDF) ∧
    ∀ lead ∈ (enc3 u).head?, 0xE0 ≤ lead.toNat ∧ lead.toNat ≤ 0xEF

/-- The four-byte form of a surrogate pair, by the source's formulas (41_utf8_producer.md section 1), with the spec's own
inference that its lead byte is 0xF0..0xF4. -/
def Obligations.FourByteForm : Prop :=
  ∀ (hi lo : CodeUnit) (cp : Nat),
    cp = 0x10000 + ((hi.toNat &&& 0x3FF) <<< 10) + (lo.toNat &&& 0x3FF) →
    (pair hi lo).toNat = cp ∧ 0x10000 ≤ cp ∧ cp ≤ 0x10FFFF ∧
    (enc4 (pair hi lo)).map BitVec.toNat =
      [0xF0 ||| (cp >>> 18), 0x80 ||| ((cp >>> 12) &&& 0x3F), 0x80 ||| ((cp >>> 6) &&& 0x3F), 0x80 ||| (cp &&& 0x3F)] ∧
    ∀ lead ∈ (enc4 (pair hi lo)).head?, 0xF0 ≤ lead.toNat ∧ lead.toNat ≤ 0xF4

/-- The byte sequence of an input (41_utf8_producer.md section 1): the equations of E, in the order of its pseudocode. -/
def Obligations.ByteSequenceEquations : Prop :=
  encodeUnits [] = [] ∧
  ∀ (u : CodeUnit) (rest : List CodeUnit),
    (u.toNat < 0x80 → encodeUnits (u :: rest) = enc1 u ++ encodeUnits rest) ∧
    (0x80 ≤ u.toNat → u.toNat < 0x800 → encodeUnits (u :: rest) = enc2 u ++ encodeUnits rest) ∧
    (∀ lo rest', rest = lo :: rest' → 0xD800 ≤ u.toNat → u.toNat ≤ 0xDBFF → 0xDC00 ≤ lo.toNat → lo.toNat ≤ 0xDFFF →
      encodeUnits (u :: rest) = enc4 (pair u lo) ++ encodeUnits rest') ∧
    (0x800 ≤ u.toNat →
      (∀ lo rest', rest = lo :: rest' →
        ¬ (0xD800 ≤ u.toNat ∧ u.toNat ≤ 0xDBFF ∧ 0xDC00 ≤ lo.toNat ∧ lo.toNat ≤ 0xDFFF)) →
      encodeUnits (u :: rest) = enc3 u ++ encodeUnits rest)

/-- The spec's own inference R128, streaming equivalence: from any state with the input open and nothing pending, the UNITs of
any sequence and then END fold exactly the bytes of E, in order, into V. -/
def Obligations.StreamingEquivalence : Prop :=
  ∀ (us : List CodeUnit) (s : State), s.done = false → s.pv = false →
    foldedBytes (us.map .unit ++ [.endInput]) s = encodeUnits us ∧
    ∃ t, execAll (us.map .unit ++ [.endInput]) s = .next t ∧ t.V = foldAll s.V (encodeUnits us) ∧
      t.done = true ∧ t.pv = false ∧ t.err = s.err ∧ t.hexr = s.hexr

/-- The spec's own inference in R125: on valid UTF-16, the code units of any text, E is standard UTF-8. The spec names standard
UTF-8 and does not write it out: that it is String.utf8EncodeChar, Lean's own encoder of a character, is the model's
presumption (log entry 11, PRESUMED). -/
def Obligations.TextBytesAreStandardUtf8 : Prop :=
  ∀ s : List Char, encodeUnits (utf16Text s) = (s.flatMap String.utf8EncodeChar).map UInt8.toBitVec

/-- The spec's own inference R131: the ranges of the bytes each form gives, and the bytes the producer never yields. -/
def Obligations.ProducedByteRanges : Prop :=
  (∀ (us : List CodeUnit) (b : Byte), b ∈ encodeUnits us → b ≠ 0xC0#8 ∧ b ≠ 0xC1#8 ∧ b.toNat < 0xF5) ∧
  (∀ u : CodeUnit, u.toNat < 0x80 → ∀ b ∈ enc1 u, b.toNat ≤ 0x7F) ∧
  (∀ u : CodeUnit, ∀ b ∈ (enc2 u).tail ++ (enc3 u).tail, 0x80 ≤ b.toNat ∧ b.toNat ≤ 0xBF) ∧
  (∀ cp : CodePoint, ∀ b ∈ (enc4 cp).tail, 0x80 ≤ b.toNat ∧ b.toNat ≤ 0xBF) ∧
  (∀ u : CodeUnit, (isHigh u = true ∨ isLow u = true) →
    ∃ b c : Byte, enc3 u = [0xED#8, b, c] ∧ 0xA0 ≤ b.toNat ∧ b.toNat ≤ 0xBF)

/-- The spec's own inference in R237: a whole input folds at most three bytes per code unit. -/
def Obligations.AtMostThreeBytesPerUnit : Prop :=
  ∀ (us : List CodeUnit) (s : State), s.done = false → s.pv = false →
    us.length ≤ (encodeUnits us).length ∧ (encodeUnits us).length ≤ 3 * us.length ∧
    (foldedBytes (us.map .unit ++ [.endInput]) s).length = (encodeUnits us).length

/-! ## The hex table -/

/-- R100, R101: entry `b` is the two lowercase hexadecimal digits of `b` in ASCII, left-zero-padded, the first in bits 15:8; and
the source's example. -/
def Obligations.HexIsTwoLowercaseDigits : Prop :=
  (∀ n : BitVec 4, (digit n).toNat = if n.toNat < 10 then 0x30 + n.toNat else 0x61 + (n.toNat - 10)) ∧
  (∀ b : Byte, (hex b).toNat =
    (digit (BitVec.ofNat 4 (b.toNat / 16))).toNat * 256 + (digit (BitVec.ofNat 4 (b.toNat % 16))).toNat) ∧
  hexstr 0x05#8 = [BitVec.ofNat 8 '0'.toNat, BitVec.ofNat 8 '5'.toNat]

/-- The spec's own inferences R102 and R104: the 256 entries listed are those of HEX, they are distinct, and each byte of each is
a digit or a lowercase letter that depends on its own nibble only. -/
def Obligations.HexRomGridAndProperties : Prop :=
  hexRom.length = 256 ∧ hexRom.Nodup ∧
  (∀ b : Byte, hexRom[b.toNat]? = some (hex b)) ∧
  ∀ b c : Byte,
    (hex b = hex c → b = c) ∧
    (b.toNat / 16 = c.toNat / 16 → highByte (hex b) = highByte (hex c)) ∧
    (b.toNat % 16 = c.toNat % 16 → lowByte (hex b) = lowByte (hex c)) ∧
    ∀ x ∈ hexstr b, (0x30 ≤ x.toNat ∧ x.toNat ≤ 0x39) ∨ (0x61 ≤ x.toNat ∧ x.toNat ≤ 0x66)

/-! ## The read port -/

/-- The read port (20_memory.md section 3, 10_state.md sections 1 and 4): what it answers at every address, by number; a read
changes no state of the core, records no error, never fails, and answers the same again. That a read appends its answer to
`hostOut` is the model's own read log and the model's choice (log entry 2, DESIGN CHOICE). -/
def Obligations.ReadPortMap : Prop :=
  ∀ (s : State) (a : RdAddr),
    (a.toNat = 0 → s.rd a = s.v0) ∧ (a.toNat = 1 → s.rd a = s.v1) ∧ (a.toNat = 2 → s.rd a = s.v2) ∧
    (a.toNat = 3 → s.rd a = s.v3) ∧
    (a.toNat = 4 → (s.rd a).toNat = s.ecode.toNat * 16 + s.err.toNat * 4 + s.done.toNat * 2 + s.pv.toNat) ∧
    (a.toNat = 5 → s.rd a = s.pend) ∧ (a.toNat = 6 → s.rd a = s.hexr) ∧ (a.toNat = 7 → s.rd a = 0x0000#16) ∧
    (8 ≤ a.toNat → s.rd a = hex (BitVec.ofNat 8 (s.V.toNat / 2 ^ (56 - 8 * (a.toNat - 8))))) ∧
    ∃ t, applyRead a s = .next t ∧ t = { s with hostOut := s.hostOut ++ [⟨a, s.rd a⟩] } ∧ ∀ b, t.rd b = s.rd b

/-- R27: the bits of STATUS, its reserved bits, and its reset value; ECODE is 0..4 where the invariant holds, no read writes
it, and ERR is sticky: no word but INIT clears it. -/
def Obligations.StatusLayout : Prop :=
  (∀ s : State,
    (s.rd 0x4#4).getLsbD 0 = s.pv ∧ (s.rd 0x4#4).getLsbD 1 = s.done ∧ (s.rd 0x4#4).getLsbD 2 = s.err ∧
    (s.rd 0x4#4).getLsbD 3 = false ∧ (s.rd 0x4#4).extractLsb' 4 4 = s.ecode ∧
    (s.rd 0x4#4).extractLsb' 8 8 = 0x00#8 ∧
    (s.Inv → s.ecode.toNat ≤ 4) ∧
    (∀ (a : RdAddr) (t : State), applyRead a s = .next t → t.rd 0x4#4 = s.rd 0x4#4) ∧
    ∀ (w : Word) (t : State), s.err = true → decode w ≠ .cmd .init → applyWord w s = .next t →
      (t.rd 0x4#4).getLsbD 2 = true) ∧
  State.reset.rd 0x4#4 = 0x0000#16

/-- R30: the digest words are computed from the current limbs through the hex ROM, most significant byte first. -/
def Obligations.DigestWordsComeFromTheLimbs : Prop :=
  ∀ s : State,
    (∀ k : Fin 8, s.rd (BitVec.ofNat 4 (8 + k.val)) = hex (s.V.extractLsb' (56 - 8 * k.val) 8)) ∧
    s.rd 0x8#4 = hex (s.v3.extractLsb' 8 8) ∧ s.rd 0x9#4 = hex (s.v3.extractLsb' 0 8) ∧
    s.rd 0xA#4 = hex (s.v2.extractLsb' 8 8) ∧ s.rd 0xB#4 = hex (s.v2.extractLsb' 0 8) ∧
    s.rd 0xC#4 = hex (s.v1.extractLsb' 8 8) ∧ s.rd 0xD#4 = hex (s.v1.extractLsb' 0 8) ∧
    s.rd 0xE#4 = hex (s.v0.extractLsb' 8 8) ∧ s.rd 0xF#4 = hex (s.v0.extractLsb' 0 8)

/-- R28: what PEND reads, 0xD800..0xDBFF when PV = 1 and 0x0000 when PV = 0 in every state that meets the invariant, and its
reset value. -/
def Obligations.PendReads : Prop :=
  (∀ s : State, s.rd 0x5#4 = s.pend ∧
    (s.Inv → s.pv = true → 0xD800 ≤ (s.rd 0x5#4).toNat ∧ (s.rd 0x5#4).toNat ≤ 0xDBFF) ∧
    (s.Inv → s.pv = false → s.rd 0x5#4 = 0x0000#16) ∧
    ∀ (a : RdAddr) (t : State), applyRead a s = .next t → t.pend = s.pend) ∧
  State.reset.rd 0x5#4 = 0x0000#16

/-- R29: HEXR is read at 0x6, HEXB writes it with the characters of its byte, the first in bits 15:8, nothing else but reset
writes it, reset sets it to 0x0000, and INIT does not change it. -/
def Obligations.HexrIsWrittenByHexbAndResetOnly : Prop :=
  (∀ s : State, s.rd 0x6#4 = s.hexr ∧ s.applyReset.hexr = 0x0000#16) ∧
  (∀ (s : State) (b : Byte), ∃ t, exec (.hexb b) s = .next t ∧ t.hexr = hex b ∧
    highByte t.hexr = digit (b.extractLsb' 4 4) ∧ lowByte t.hexr = digit (b.extractLsb' 0 4)) ∧
  (∀ (w : Word) (s t : State), (∀ b, decode w ≠ .cmd (.hexb b)) → applyWord w s = .next t → t.hexr = s.hexr) ∧
  ∀ s t : State, exec .init s = .next t → t.hexr = s.hexr

/-! ## The digest -/

/-- Rendering (43_digest.md section 2), with the spec's own inference that the digest is V written in hexadecimal: 16
characters, character `k` the lowercase digit of V's nibble `k` from the top; and the eight digest words spell it. -/
def Obligations.DigestStringIsTheValueInHex : Prop :=
  (∀ v : Hash, (digestString v).length = 16 ∧
    ∀ k < 16, (digestString v)[k]? =
      ['0', '1', '2', '3', '4', '5', '6', '7', '8', '9', 'a', 'b', 'c', 'd', 'e', 'f'][v.toNat / 16 ^ (15 - k) % 16]?) ∧
  ∀ s : State, charsOfWords (digAddrs.map s.rd) = digestString s.V

/-- The composition and the totality of the digest function (43_digest.md section 3, with the spec's own inference that no
command of the sequence is rejected): from any state, INIT, the UNITs of any text, END leave the digest of the text, with
ERR = 0 and DONE = 1. -/
def Obligations.DigestOfEveryText : Prop :=
  ∀ (text : List CodeUnit) (s : State), ∃ t, execAll (digestCommands text) s = .next t ∧
    digestString t.V = digest text ∧ t.V = foldAll 0xcbf29ce484222325#64 (encodeUnits text) ∧
    t.done = true ∧ t.pv = false ∧ t.err = false ∧ t.ecode = 0#4 ∧ t.hexr = s.hexr

/-- The same through the ports, step by step (the host's stream and read log are the model's own, log entries 1 and 2): a host
that writes the words of INIT, the UNITs of any text and END, and then reads DIG0..DIG7, has read the digest of the text,
whatever the state before and whatever it does after. -/
def Obligations.HostReadsTheDigestOfEveryText : Prop :=
  ∀ (text : List CodeUnit) (s : State) (rest : List HostEvent),
    s.hostIn = (digestCommands text).map emit ++ digAddrs.map .read ++ rest →
    ∃ t ws, runSteps (text.length + 10) s = .next t ∧ t.hostIn = rest ∧
      t.hostOut = s.hostOut ++ ws ∧ ws.map PortRead.addr = digAddrs ∧
      charsOfWords (ws.map PortRead.data) = digest text

/-- R186: INIT and END alone leave the offset basis, and its hexadecimal spelling is the digest of the empty input. -/
def Obligations.EmptyInputDigest : Prop :=
  (∀ s : State, ∃ t u, exec .init s = .next t ∧ exec .endInput t = .next u ∧ u.V = 0xcbf29ce484222325#64 ∧
    digestString u.V = ['c', 'b', 'f', '2', '9', 'c', 'e', '4', '8', '4', '2', '2', '2', '3', '2', '5']) ∧
  digest [] = ['c', 'b', 'f', '2', '9', 'c', 'e', '4', '8', '4', '2', '2', '2', '3', '2', '5']

/-- FOLDing the bytes of E(text) one by one from INIT gives the V that the UNITs of the text and END give (a corner case of
42_accumulator.md section 2). -/
def Obligations.FoldRouteEqualsUnitRoute : Prop :=
  ∀ (text : List CodeUnit) (s : State), ∃ t u,
    execAll (digestCommands text) s = .next t ∧
    execAll (.init :: (encodeUnits text).map .fold) s = .next u ∧ u.V = t.V ∧ u.err = false

/-! ## Ordering and several cores -/

/-- The ordering model (20_memory.md section 4), over the model's own stream and read log (log entries 1 and 2): a read answers
from the state after every command written before it, whatever comes after it. -/
def Obligations.ReadsSeeEveryEarlierCommand : Prop :=
  ∀ (ws : List Word) (a : RdAddr) (rest : List HostEvent) (s t : State),
    s.hostIn = ws.map .command ++ .read a :: rest → applyWords ws s = .next t →
    ∃ u, runSteps (ws.length + 1) s = .next u ∧ u.hostIn = rest ∧ u.hostOut = s.hostOut ++ [⟨a, t.rd a⟩] ∧ u.V = t.V

/-- The spec's own inference R235: NOP and HEXB between the reads of a set leave every limb and every digest word as it was. -/
def Obligations.NopAndHexbKeepMultiwordReads : Prop :=
  ∀ (is : List Instr) (s t : State), (∀ i ∈ is, i = .nop ∨ ∃ b, i = .hexb b) → execAll is s = .next t →
    ∀ a : RdAddr, (a.toNat < 4 ∨ 8 ≤ a.toNat) → t.rd a = s.rd a

/-- Several cores (20_memory.md section 6, 60_exceptions.md section 6): in any interleaving of any number of cores, each core
ends as it would on its own after as many steps of its own. That several cores are a vector of states which step one at a
time in the order of a schedule, each with its own host stream, is the model's reading of those sections (log entry 9, DEDUCED;
the stream is log entry 1, DESIGN CHOICE). -/
def Obligations.CoresDoNotInteract : Prop :=
  ∀ (n : Nat) (ks : List (Fin n)) (p : Platform n), ∃ q, platformRun ks p = .next q ∧
    ∀ k : Fin n, runSteps (ks.count k) p[k] = .next q[k]

/-! ## The assembler and the transport -/

/-- What the assembler accepts (30_encoding.md section 5): an operand out of range is refused, and every word it emits, but for a
raw `.word`, is a command's. -/
def Obligations.AssemblyNeverWritesARejectedWord : Prop :=
  (∀ (l : AsmLine) (es : List HostEvent) (w : Word), assembleLine l = some es → (∀ n, l ≠ .word n) →
    .command w ∈ es → ∃ i, decode w = .cmd i) ∧
  (∀ n : Nat, 0xFFFF < n → assembleLine (.unit n) = none) ∧
  ∀ n : Nat, 0xFF < n → assembleLine (.fold n) = none ∧ assembleLine (.hexb n) = none

/-- The pseudo-instructions (30_encoding.md section 5), each by its expansion; a character above U+FFFF becomes its two surrogate
units, high first. -/
def Obligations.PseudoInstructionExpansions : Prop :=
  (∀ s : List Char, assembleLine (.text s) = some ((s.flatMap utf16).map fun u => .command (encode (.unit u)))) ∧
  (∀ s : List Char, assembleLine (.digest s) = some ((digestCommands (s.flatMap utf16)).map fun i => .command (encode i))) ∧
  (∀ us : List CodeUnit, assembleLine (.units (us.map BitVec.toNat)) = some (us.map fun u => .command (encode (.unit u)))) ∧
  (∀ bs : List Byte, assembleLine (.bytes (bs.map BitVec.toNat)) = some (bs.map fun b => .command (encode (.fold b)))) ∧
  assembleLine .readdig =
    some [.read 0x8#4, .read 0x9#4, .read 0xA#4, .read 0xB#4, .read 0xC#4, .read 0xD#4, .read 0xE#4, .read 0xF#4] ∧
  ∀ c : Char,
    (c.toNat ≤ 0xFFFF → ∃ u, utf16 c = [u] ∧ u.toNat = c.toNat) ∧
    (0xFFFF < c.toNat → ∃ hi lo, utf16 c = [hi, lo] ∧ isHigh hi = true ∧ isLow lo = true ∧ (pair hi lo).toNat = c.toNat)

/-- CMD_BYTE_ORDER left open (00_scope.md section 4, log entry 3): in whatever order a narrower bus lays the bytes out, exactly
one transfer delivers each command word, and the core then does what that word does. -/
def Obligations.NarrowBusDeliversEveryWord : Prop :=
  (∀ w : Word, ∃! bytes : Fin 4 → Byte, cmdWordOfBytes bytes = w) ∧
  (∀ (bytes : Fin 4 → Byte) (i : Fin 4), byteLane (cmdWordOfBytes bytes) (Config.cmdByteOrder i) = bytes i) ∧
  ∀ (bytes : Fin 4 → Byte) (w : Word) (s : State), cmdWordOfBytes bytes = w → applyBytes bytes s = applyWord w s
end

