-- ==== Sys2Proof/Laws/Decode.lean ====
section
/-! SUPPORT. The small lemmas of the fields of a command word and of the encoder. -/

namespace Sys2Proof.Machine

/-! ## The fields as numbers, for the rules that speak of a word's value -/

theorem opcField_toNat (w : Word) : (opcField w).toNat = w.toNat / 2 ^ 24 := by
  have := w.isLt
  simp only [opcField, BitVec.extractLsb'_toNat, Nat.shiftRight_eq_div_pow]
  omega

theorem rsvField_toNat (w : Word) : (rsvField w).toNat = w.toNat / 2 ^ 16 % 2 ^ 8 := by
  simp only [rsvField, BitVec.extractLsb'_toNat, Nat.shiftRight_eq_div_pow]

theorem immField_toNat (w : Word) : (immField w).toNat = w.toNat % 2 ^ 16 := by
  simp only [immField, BitVec.extractLsb'_toNat, Nat.shiftRight_eq_div_pow]
  omega

theorem immHigh_toNat (imm : BitVec 16) : (immHigh imm).toNat = imm.toNat / 2 ^ 8 := by
  have := imm.isLt
  simp only [immHigh, BitVec.extractLsb'_toNat, Nat.shiftRight_eq_div_pow]
  omega

theorem operandByte_toNat (imm : BitVec 16) : (operandByte imm).toNat = imm.toNat % 2 ^ 8 := by
  simp only [operandByte, BitVec.extractLsb'_toNat, Nat.shiftRight_eq_div_pow]
  omega

theorem immOfByte_toNat (b : Byte) : (immOfByte b).toNat = b.toNat := by
  have e : (immOfByte b).toNat = (0x00#8).toNat <<< 8 ||| b.toNat := by
    rw [← BitVec.toNat_append]
    rfl
  rw [e]
  simp

/-- A word of format C as a number (R70). -/
theorem formatC_toNat (opc rsv : BitVec 8) (imm : BitVec 16) :
    (formatC opc rsv imm).toNat = opc.toNat * 2 ^ 24 + rsv.toNat * 2 ^ 16 + imm.toNat := by
  have h0 := imm.isLt
  have h1 := rsv.isLt
  have e : (formatC opc rsv imm).toNat = (opc.toNat <<< 8 ||| rsv.toNat) <<< 16 ||| imm.toNat := by
    rw [← BitVec.toNat_append, ← BitVec.toNat_append]
    rfl
  rw [e, ← Nat.shiftLeft_add_eq_or_of_lt h1, ← Nat.shiftLeft_add_eq_or_of_lt h0]
  simp only [Nat.shiftLeft_eq]
  omega

/-! ## A word and its fields (R70, R72) -/

@[simp] theorem opcField_formatC (opc rsv : BitVec 8) (imm : BitVec 16) : opcField (formatC opc rsv imm) = opc := by
  apply BitVec.eq_of_toNat_eq
  have h0 := imm.isLt
  have h1 := rsv.isLt
  rw [opcField_toNat, formatC_toNat]
  omega

@[simp] theorem rsvField_formatC (opc rsv : BitVec 8) (imm : BitVec 16) : rsvField (formatC opc rsv imm) = rsv := by
  apply BitVec.eq_of_toNat_eq
  have h0 := imm.isLt
  have h1 := rsv.isLt
  rw [rsvField_toNat, formatC_toNat]
  omega

@[simp] theorem immField_formatC (opc rsv : BitVec 8) (imm : BitVec 16) : immField (formatC opc rsv imm) = imm := by
  apply BitVec.eq_of_toNat_eq
  have h0 := imm.isLt
  rw [immField_toNat, formatC_toNat]
  omega

/-- A word is its three fields (R70). -/
theorem formatC_fields (w : Word) : formatC (opcField w) (rsvField w) (immField w) = w := by
  apply BitVec.eq_of_toNat_eq
  rw [formatC_toNat, opcField_toNat, rsvField_toNat, immField_toNat]
  omega

@[simp] theorem operandByte_immOfByte (b : Byte) : operandByte (immOfByte b) = b := by
  apply BitVec.eq_of_toNat_eq
  have := b.isLt
  rw [operandByte_toNat, immOfByte_toNat]
  omega

@[simp] theorem immHigh_immOfByte (b : Byte) : immHigh (immOfByte b) = 0x00#8 := by
  apply BitVec.eq_of_toNat_eq
  have := b.isLt
  rw [immHigh_toNat, immOfByte_toNat, BitVec.toNat_ofNat]
  omega

/-- An IMM whose high byte is 0x00 is that of its low byte. -/
theorem immOfByte_operandByte {imm : BitVec 16} (h : immHigh imm = 0x00#8) : immOfByte (operandByte imm) = imm := by
  apply BitVec.eq_of_toNat_eq
  have hn := congrArg BitVec.toNat h
  rw [immHigh_toNat, BitVec.toNat_ofNat] at hn
  rw [immOfByte_toNat, operandByte_toNat]
  omega

@[simp] theorem opcField_encode (i : Instr) : opcField (encode i) = i.opc := opcField_formatC ..

@[simp] theorem rsvField_encode (i : Instr) : rsvField (encode i) = 0x00#8 := rsvField_formatC ..

@[simp] theorem immField_encode (i : Instr) : immField (encode i) = i.imm := immField_formatC ..

end Sys2Proof.Machine
end

