-- ==== Sys2Proof/Laws/State.lean ====
section
/-! SUPPORT. The state's small lemmas: what each field is after each named update (one lemma per field per update, true by
rfl), and what V and STATUS are, so that no later proof unfolds a record update. -/

namespace Sys2Proof.Machine

/-! ## setV -/

@[simp] theorem State.setV_v0 (s : State) (v : Hash) : (s.setV v).v0 = limbOf 0 v := rfl
@[simp] theorem State.setV_v1 (s : State) (v : Hash) : (s.setV v).v1 = limbOf 1 v := rfl
@[simp] theorem State.setV_v2 (s : State) (v : Hash) : (s.setV v).v2 = limbOf 2 v := rfl
@[simp] theorem State.setV_v3 (s : State) (v : Hash) : (s.setV v).v3 = limbOf 3 v := rfl
@[simp] theorem State.setV_pv (s : State) (v : Hash) : (s.setV v).pv = s.pv := rfl
@[simp] theorem State.setV_pend (s : State) (v : Hash) : (s.setV v).pend = s.pend := rfl
@[simp] theorem State.setV_done (s : State) (v : Hash) : (s.setV v).done = s.done := rfl
@[simp] theorem State.setV_err (s : State) (v : Hash) : (s.setV v).err = s.err := rfl
@[simp] theorem State.setV_ecode (s : State) (v : Hash) : (s.setV v).ecode = s.ecode := rfl
@[simp] theorem State.setV_hexr (s : State) (v : Hash) : (s.setV v).hexr = s.hexr := rfl
@[simp] theorem State.setV_hostIn (s : State) (v : Hash) : (s.setV v).hostIn = s.hostIn := rfl
@[simp] theorem State.setV_hostOut (s : State) (v : Hash) : (s.setV v).hostOut = s.hostOut := rfl

/-! ## setBasis -/

@[simp] theorem State.setBasis_v0 (s : State) : (s.setBasis).v0 = 0x2325#16 := rfl
@[simp] theorem State.setBasis_v1 (s : State) : (s.setBasis).v1 = 0x8422#16 := rfl
@[simp] theorem State.setBasis_v2 (s : State) : (s.setBasis).v2 = 0x9ce4#16 := rfl
@[simp] theorem State.setBasis_v3 (s : State) : (s.setBasis).v3 = 0xcbf2#16 := rfl
@[simp] theorem State.setBasis_pv (s : State) : (s.setBasis).pv = s.pv := rfl
@[simp] theorem State.setBasis_pend (s : State) : (s.setBasis).pend = s.pend := rfl
@[simp] theorem State.setBasis_done (s : State) : (s.setBasis).done = s.done := rfl
@[simp] theorem State.setBasis_err (s : State) : (s.setBasis).err = s.err := rfl
@[simp] theorem State.setBasis_ecode (s : State) : (s.setBasis).ecode = s.ecode := rfl
@[simp] theorem State.setBasis_hexr (s : State) : (s.setBasis).hexr = s.hexr := rfl
@[simp] theorem State.setBasis_hostIn (s : State) : (s.setBasis).hostIn = s.hostIn := rfl
@[simp] theorem State.setBasis_hostOut (s : State) : (s.setBasis).hostOut = s.hostOut := rfl

/-! ## setPending -/

@[simp] theorem State.setPending_v0 (s : State) (u : CodeUnit) : (s.setPending u).v0 = s.v0 := rfl
@[simp] theorem State.setPending_v1 (s : State) (u : CodeUnit) : (s.setPending u).v1 = s.v1 := rfl
@[simp] theorem State.setPending_v2 (s : State) (u : CodeUnit) : (s.setPending u).v2 = s.v2 := rfl
@[simp] theorem State.setPending_v3 (s : State) (u : CodeUnit) : (s.setPending u).v3 = s.v3 := rfl
@[simp] theorem State.setPending_pv (s : State) (u : CodeUnit) : (s.setPending u).pv = true := rfl
@[simp] theorem State.setPending_pend (s : State) (u : CodeUnit) : (s.setPending u).pend = u := rfl
@[simp] theorem State.setPending_done (s : State) (u : CodeUnit) : (s.setPending u).done = s.done := rfl
@[simp] theorem State.setPending_err (s : State) (u : CodeUnit) : (s.setPending u).err = s.err := rfl
@[simp] theorem State.setPending_ecode (s : State) (u : CodeUnit) : (s.setPending u).ecode = s.ecode := rfl
@[simp] theorem State.setPending_hexr (s : State) (u : CodeUnit) : (s.setPending u).hexr = s.hexr := rfl
@[simp] theorem State.setPending_hostIn (s : State) (u : CodeUnit) : (s.setPending u).hostIn = s.hostIn := rfl
@[simp] theorem State.setPending_hostOut (s : State) (u : CodeUnit) : (s.setPending u).hostOut = s.hostOut := rfl
@[simp] theorem State.setPending_V (s : State) (u : CodeUnit) : (s.setPending u).V = s.V := rfl

/-! ## clearPending -/

@[simp] theorem State.clearPending_v0 (s : State) : (s.clearPending).v0 = s.v0 := rfl
@[simp] theorem State.clearPending_v1 (s : State) : (s.clearPending).v1 = s.v1 := rfl
@[simp] theorem State.clearPending_v2 (s : State) : (s.clearPending).v2 = s.v2 := rfl
@[simp] theorem State.clearPending_v3 (s : State) : (s.clearPending).v3 = s.v3 := rfl
@[simp] theorem State.clearPending_pv (s : State) : (s.clearPending).pv = false := rfl
@[simp] theorem State.clearPending_pend (s : State) : (s.clearPending).pend = 0x0000#16 := rfl
@[simp] theorem State.clearPending_done (s : State) : (s.clearPending).done = s.done := rfl
@[simp] theorem State.clearPending_err (s : State) : (s.clearPending).err = s.err := rfl
@[simp] theorem State.clearPending_ecode (s : State) : (s.clearPending).ecode = s.ecode := rfl
@[simp] theorem State.clearPending_hexr (s : State) : (s.clearPending).hexr = s.hexr := rfl
@[simp] theorem State.clearPending_hostIn (s : State) : (s.clearPending).hostIn = s.hostIn := rfl
@[simp] theorem State.clearPending_hostOut (s : State) : (s.clearPending).hostOut = s.hostOut := rfl
@[simp] theorem State.clearPending_V (s : State) : (s.clearPending).V = s.V := rfl

/-! ## setDone -/

@[simp] theorem State.setDone_v0 (s : State) (d : Bool) : (s.setDone d).v0 = s.v0 := rfl
@[simp] theorem State.setDone_v1 (s : State) (d : Bool) : (s.setDone d).v1 = s.v1 := rfl
@[simp] theorem State.setDone_v2 (s : State) (d : Bool) : (s.setDone d).v2 = s.v2 := rfl
@[simp] theorem State.setDone_v3 (s : State) (d : Bool) : (s.setDone d).v3 = s.v3 := rfl
@[simp] theorem State.setDone_pv (s : State) (d : Bool) : (s.setDone d).pv = s.pv := rfl
@[simp] theorem State.setDone_pend (s : State) (d : Bool) : (s.setDone d).pend = s.pend := rfl
@[simp] theorem State.setDone_done (s : State) (d : Bool) : (s.setDone d).done = d := rfl
@[simp] theorem State.setDone_err (s : State) (d : Bool) : (s.setDone d).err = s.err := rfl
@[simp] theorem State.setDone_ecode (s : State) (d : Bool) : (s.setDone d).ecode = s.ecode := rfl
@[simp] theorem State.setDone_hexr (s : State) (d : Bool) : (s.setDone d).hexr = s.hexr := rfl
@[simp] theorem State.setDone_hostIn (s : State) (d : Bool) : (s.setDone d).hostIn = s.hostIn := rfl
@[simp] theorem State.setDone_hostOut (s : State) (d : Bool) : (s.setDone d).hostOut = s.hostOut := rfl
@[simp] theorem State.setDone_V (s : State) (d : Bool) : (s.setDone d).V = s.V := rfl

/-! ## cmdError -/

@[simp] theorem State.cmdError_v0 (s : State) (c : Cause) : (s.cmdError c).v0 = s.v0 := rfl
@[simp] theorem State.cmdError_v1 (s : State) (c : Cause) : (s.cmdError c).v1 = s.v1 := rfl
@[simp] theorem State.cmdError_v2 (s : State) (c : Cause) : (s.cmdError c).v2 = s.v2 := rfl
@[simp] theorem State.cmdError_v3 (s : State) (c : Cause) : (s.cmdError c).v3 = s.v3 := rfl
@[simp] theorem State.cmdError_pv (s : State) (c : Cause) : (s.cmdError c).pv = s.pv := rfl
@[simp] theorem State.cmdError_pend (s : State) (c : Cause) : (s.cmdError c).pend = s.pend := rfl
@[simp] theorem State.cmdError_done (s : State) (c : Cause) : (s.cmdError c).done = s.done := rfl
@[simp] theorem State.cmdError_err (s : State) (c : Cause) : (s.cmdError c).err = true := rfl
@[simp] theorem State.cmdError_ecode (s : State) (c : Cause) : (s.cmdError c).ecode = s.firstCause (causeCode c) := rfl
@[simp] theorem State.cmdError_hexr (s : State) (c : Cause) : (s.cmdError c).hexr = s.hexr := rfl
@[simp] theorem State.cmdError_hostIn (s : State) (c : Cause) : (s.cmdError c).hostIn = s.hostIn := rfl
@[simp] theorem State.cmdError_hostOut (s : State) (c : Cause) : (s.cmdError c).hostOut = s.hostOut := rfl
@[simp] theorem State.cmdError_V (s : State) (c : Cause) : (s.cmdError c).V = s.V := rfl

/-! ## clearError -/

@[simp] theorem State.clearError_v0 (s : State) : (s.clearError).v0 = s.v0 := rfl
@[simp] theorem State.clearError_v1 (s : State) : (s.clearError).v1 = s.v1 := rfl
@[simp] theorem State.clearError_v2 (s : State) : (s.clearError).v2 = s.v2 := rfl
@[simp] theorem State.clearError_v3 (s : State) : (s.clearError).v3 = s.v3 := rfl
@[simp] theorem State.clearError_pv (s : State) : (s.clearError).pv = s.pv := rfl
@[simp] theorem State.clearError_pend (s : State) : (s.clearError).pend = s.pend := rfl
@[simp] theorem State.clearError_done (s : State) : (s.clearError).done = s.done := rfl
@[simp] theorem State.clearError_err (s : State) : (s.clearError).err = false := rfl
@[simp] theorem State.clearError_ecode (s : State) : (s.clearError).ecode = 0#4 := rfl
@[simp] theorem State.clearError_hexr (s : State) : (s.clearError).hexr = s.hexr := rfl
@[simp] theorem State.clearError_hostIn (s : State) : (s.clearError).hostIn = s.hostIn := rfl
@[simp] theorem State.clearError_hostOut (s : State) : (s.clearError).hostOut = s.hostOut := rfl
@[simp] theorem State.clearError_V (s : State) : (s.clearError).V = s.V := rfl

/-! ## setHexr -/

@[simp] theorem State.setHexr_v0 (s : State) (d : RdData) : (s.setHexr d).v0 = s.v0 := rfl
@[simp] theorem State.setHexr_v1 (s : State) (d : RdData) : (s.setHexr d).v1 = s.v1 := rfl
@[simp] theorem State.setHexr_v2 (s : State) (d : RdData) : (s.setHexr d).v2 = s.v2 := rfl
@[simp] theorem State.setHexr_v3 (s : State) (d : RdData) : (s.setHexr d).v3 = s.v3 := rfl
@[simp] theorem State.setHexr_pv (s : State) (d : RdData) : (s.setHexr d).pv = s.pv := rfl
@[simp] theorem State.setHexr_pend (s : State) (d : RdData) : (s.setHexr d).pend = s.pend := rfl
@[simp] theorem State.setHexr_done (s : State) (d : RdData) : (s.setHexr d).done = s.done := rfl
@[simp] theorem State.setHexr_err (s : State) (d : RdData) : (s.setHexr d).err = s.err := rfl
@[simp] theorem State.setHexr_ecode (s : State) (d : RdData) : (s.setHexr d).ecode = s.ecode := rfl
@[simp] theorem State.setHexr_hexr (s : State) (d : RdData) : (s.setHexr d).hexr = d := rfl
@[simp] theorem State.setHexr_hostIn (s : State) (d : RdData) : (s.setHexr d).hostIn = s.hostIn := rfl
@[simp] theorem State.setHexr_hostOut (s : State) (d : RdData) : (s.setHexr d).hostOut = s.hostOut := rfl
@[simp] theorem State.setHexr_V (s : State) (d : RdData) : (s.setHexr d).V = s.V := rfl

/-! ## setHostIn -/

@[simp] theorem State.setHostIn_v0 (s : State) (es : List HostEvent) : (s.setHostIn es).v0 = s.v0 := rfl
@[simp] theorem State.setHostIn_v1 (s : State) (es : List HostEvent) : (s.setHostIn es).v1 = s.v1 := rfl
@[simp] theorem State.setHostIn_v2 (s : State) (es : List HostEvent) : (s.setHostIn es).v2 = s.v2 := rfl
@[simp] theorem State.setHostIn_v3 (s : State) (es : List HostEvent) : (s.setHostIn es).v3 = s.v3 := rfl
@[simp] theorem State.setHostIn_pv (s : State) (es : List HostEvent) : (s.setHostIn es).pv = s.pv := rfl
@[simp] theorem State.setHostIn_pend (s : State) (es : List HostEvent) : (s.setHostIn es).pend = s.pend := rfl
@[simp] theorem State.setHostIn_done (s : State) (es : List HostEvent) : (s.setHostIn es).done = s.done := rfl
@[simp] theorem State.setHostIn_err (s : State) (es : List HostEvent) : (s.setHostIn es).err = s.err := rfl
@[simp] theorem State.setHostIn_ecode (s : State) (es : List HostEvent) : (s.setHostIn es).ecode = s.ecode := rfl
@[simp] theorem State.setHostIn_hexr (s : State) (es : List HostEvent) : (s.setHostIn es).hexr = s.hexr := rfl
@[simp] theorem State.setHostIn_hostIn (s : State) (es : List HostEvent) : (s.setHostIn es).hostIn = es := rfl
@[simp] theorem State.setHostIn_hostOut (s : State) (es : List HostEvent) : (s.setHostIn es).hostOut = s.hostOut := rfl
@[simp] theorem State.setHostIn_V (s : State) (es : List HostEvent) : (s.setHostIn es).V = s.V := rfl

/-! ## logRead -/

@[simp] theorem State.logRead_v0 (s : State) (r : PortRead) : (s.logRead r).v0 = s.v0 := rfl
@[simp] theorem State.logRead_v1 (s : State) (r : PortRead) : (s.logRead r).v1 = s.v1 := rfl
@[simp] theorem State.logRead_v2 (s : State) (r : PortRead) : (s.logRead r).v2 = s.v2 := rfl
@[simp] theorem State.logRead_v3 (s : State) (r : PortRead) : (s.logRead r).v3 = s.v3 := rfl
@[simp] theorem State.logRead_pv (s : State) (r : PortRead) : (s.logRead r).pv = s.pv := rfl
@[simp] theorem State.logRead_pend (s : State) (r : PortRead) : (s.logRead r).pend = s.pend := rfl
@[simp] theorem State.logRead_done (s : State) (r : PortRead) : (s.logRead r).done = s.done := rfl
@[simp] theorem State.logRead_err (s : State) (r : PortRead) : (s.logRead r).err = s.err := rfl
@[simp] theorem State.logRead_ecode (s : State) (r : PortRead) : (s.logRead r).ecode = s.ecode := rfl
@[simp] theorem State.logRead_hexr (s : State) (r : PortRead) : (s.logRead r).hexr = s.hexr := rfl
@[simp] theorem State.logRead_hostIn (s : State) (r : PortRead) : (s.logRead r).hostIn = s.hostIn := rfl
@[simp] theorem State.logRead_hostOut (s : State) (r : PortRead) : (s.logRead r).hostOut = s.hostOut ++ [r] := rfl
@[simp] theorem State.logRead_V (s : State) (r : PortRead) : (s.logRead r).V = s.V := rfl

/-! ## applyReset -/

@[simp] theorem State.applyReset_v0 (s : State) : (s.applyReset).v0 = 0x2325#16 := rfl
@[simp] theorem State.applyReset_v1 (s : State) : (s.applyReset).v1 = 0x8422#16 := rfl
@[simp] theorem State.applyReset_v2 (s : State) : (s.applyReset).v2 = 0x9ce4#16 := rfl
@[simp] theorem State.applyReset_v3 (s : State) : (s.applyReset).v3 = 0xcbf2#16 := rfl
@[simp] theorem State.applyReset_pv (s : State) : (s.applyReset).pv = false := rfl
@[simp] theorem State.applyReset_pend (s : State) : (s.applyReset).pend = 0x0000#16 := rfl
@[simp] theorem State.applyReset_done (s : State) : (s.applyReset).done = false := rfl
@[simp] theorem State.applyReset_err (s : State) : (s.applyReset).err = false := rfl
@[simp] theorem State.applyReset_ecode (s : State) : (s.applyReset).ecode = 0#4 := rfl
@[simp] theorem State.applyReset_hexr (s : State) : (s.applyReset).hexr = 0x0000#16 := rfl
@[simp] theorem State.applyReset_hostIn (s : State) : (s.applyReset).hostIn = s.hostIn := rfl
@[simp] theorem State.applyReset_hostOut (s : State) : (s.applyReset).hostOut = s.hostOut := rfl

/-! ## V and its limbs (R22) -/

/-- V's number, limb by limb. -/
theorem State.V_toNat (s : State) :
    s.V.toNat = s.v3.toNat * 2 ^ 48 + s.v2.toNat * 2 ^ 32 + s.v1.toNat * 2 ^ 16 + s.v0.toNat := by
  have h0 := s.v0.isLt
  have h1 := s.v1.isLt
  have h2 := s.v2.isLt
  have e : s.V.toNat = ((s.v3.toNat <<< 16 ||| s.v2.toNat) <<< 16 ||| s.v1.toNat) <<< 16 ||| s.v0.toNat := by
    rw [← BitVec.toNat_append, ← BitVec.toNat_append, ← BitVec.toNat_append]
    rfl
  rw [e, ← Nat.shiftLeft_add_eq_or_of_lt h2, ← Nat.shiftLeft_add_eq_or_of_lt h1,
    ← Nat.shiftLeft_add_eq_or_of_lt h0]
  simp only [Nat.shiftLeft_eq]
  omega

/-- A limb's number. -/
theorem limbOf_toNat (k : Nat) (v : Hash) : (limbOf k v).toNat = v.toNat / 2 ^ (16 * k) % 2 ^ 16 := by
  simp only [limbOf, BitVec.extractLsb'_toNat, Nat.shiftRight_eq_div_pow]

@[simp] theorem State.setV_V (s : State) (v : Hash) : (s.setV v).V = v := by
  apply BitVec.eq_of_toNat_eq
  have := v.isLt
  simp only [State.V_toNat, State.setV_v0, State.setV_v1, State.setV_v2, State.setV_v3, limbOf_toNat]
  omega

/-- The limbs of the basis are the offset basis (R2, R8). -/
@[simp] theorem State.setBasis_V (s : State) : s.setBasis.V = Config.offsetBasis := by
  apply BitVec.eq_of_toNat_eq
  simp [State.V_toNat, Config.offsetBasis]

@[simp] theorem State.setV_setV (s : State) (v w : Hash) : (s.setV v).setV w = s.setV w := rfl

@[simp] theorem State.clearPending_setV (s : State) (v : Hash) :
    (s.clearPending).setV v = (s.setV v).clearPending := rfl

@[simp] theorem State.setPending_clearPending (s : State) (u : CodeUnit) :
    (s.clearPending).setPending u = s.setPending u := rfl

@[simp] theorem limbOf_zero_V (s : State) : limbOf 0 s.V = s.v0 := by
  apply BitVec.eq_of_toNat_eq
  have h0 := s.v0.isLt
  simp only [limbOf_toNat, State.V_toNat]
  omega

@[simp] theorem limbOf_one_V (s : State) : limbOf 1 s.V = s.v1 := by
  apply BitVec.eq_of_toNat_eq
  have h0 := s.v0.isLt
  have h1 := s.v1.isLt
  simp only [limbOf_toNat, State.V_toNat]
  omega

@[simp] theorem limbOf_two_V (s : State) : limbOf 2 s.V = s.v2 := by
  apply BitVec.eq_of_toNat_eq
  have h0 := s.v0.isLt
  have h1 := s.v1.isLt
  have h2 := s.v2.isLt
  simp only [limbOf_toNat, State.V_toNat]
  omega

@[simp] theorem limbOf_three_V (s : State) : limbOf 3 s.V = s.v3 := by
  apply BitVec.eq_of_toNat_eq
  have h0 := s.v0.isLt
  have h1 := s.v1.isLt
  have h2 := s.v2.isLt
  have h3 := s.v3.isLt
  simp only [limbOf_toNat, State.V_toNat]
  omega

/-- Writing V back leaves the state as it is. -/
@[simp] theorem State.setV_self (s : State) : s.setV s.V = s := by
  simp [State.setV]

/-- Two states with one V have the same limbs. -/
theorem State.V_inj {s t : State} (h : s.V = t.V) : s.v0 = t.v0 ∧ s.v1 = t.v1 ∧ s.v2 = t.v2 ∧ s.v3 = t.v3 := by
  rw [← limbOf_zero_V s, ← limbOf_one_V s, ← limbOf_two_V s, ← limbOf_three_V s, h]
  simp

end Sys2Proof.Machine
end

