-- ==== Sys2Proof/Laws/Ops.lean ====
section
/-! SUPPORT. What each shared operation does, said once: the fold over a list of bytes, the fresh unit and the accepted UNIT,
the flushed pending surrogate, the rejection, the host's stream, and the inversion of `exec`. -/

namespace Sys2Proof.Machine

/-! ## The fold -/

@[simp] theorem foldAll_nil (v : Hash) : foldAll v [] = v := rfl

@[simp] theorem foldAll_cons (v : Hash) (b : Byte) (bs : List Byte) :
    foldAll v (b :: bs) = foldAll (foldHash v b) bs := by
  unfold foldAll
  exact List.foldl_cons ..

@[simp] theorem foldAll_append (v : Hash) (bs cs : List Byte) :
    foldAll v (bs ++ cs) = foldAll (foldAll v bs) cs := by
  simp [foldAll]

@[simp] theorem State.foldSeq_nil (s : State) : s.foldSeq [] = s := rfl

/-- One byte more is folded first. -/
theorem State.foldSeq_cons (s : State) (b : Byte) (bs : List Byte) : s.foldSeq (b :: bs) = (s.fold b).foldSeq bs := by
  unfold State.foldSeq
  exact List.foldl_cons ..

theorem State.fold_eq_setV (s : State) (b : Byte) : s.fold b = s.setV (foldHash s.V b) := rfl

/-- FoldSeq writes V and nothing else (R150). -/
theorem State.foldSeq_eq_setV (bs : List Byte) : ∀ s : State, s.foldSeq bs = s.setV (foldAll s.V bs) := by
  induction bs with
  | nil => intro s; rw [foldAll_nil, State.setV_self, State.foldSeq_nil]
  | cons b bs ih =>
    intro s
    rw [State.foldSeq_cons, ih, State.fold_eq_setV, State.setV_V, State.setV_setV, foldAll_cons]

/-! ## The producer -/

/-- A unit encoded alone (R120) by its class. -/
theorem encodeAlone_of_isOne {u : CodeUnit} (h : isOne u = true) : encodeAlone u = enc1 u := by
  simp [encodeAlone, h]

/-- A fresh unit waits if it is HIGH, and otherwise folds what it is encoded to alone (R126). -/
theorem State.freshUnit_eq (s : State) (u : CodeUnit) :
    s.freshUnit u = if isHigh u then s.setPending u else s.setV (foldAll s.V (encodeAlone u)) := by
  unfold State.freshUnit encodeAlone
  split
  · rfl
  · split
    · simp [State.fold, enc1]
    · split <;> simp [State.foldSeq_eq_setV]

/-- No code unit is both surrogates (R120). -/
theorem isHigh_of_isLow {u : CodeUnit} (h : isLow u = true) : isHigh u = false := by
  simp only [isLow, Bool.and_eq_true, decide_eq_true_eq, BitVec.le_def, BitVec.toNat_ofNat] at h
  simp only [isHigh, Bool.and_eq_false_iff, decide_eq_false_iff_not, BitVec.le_def, BitVec.toNat_ofNat]
  omega

/-- An accepted UNIT (R126): it folds `unitBytes`, and a HIGH waits. -/
theorem State.acceptUnit_eq (s : State) (u : CodeUnit) :
    s.acceptUnit u =
      if isHigh u then (s.setV (foldAll s.V (unitBytes s.pv s.pend u))).setPending u
      else if s.pv then (s.setV (foldAll s.V (unitBytes s.pv s.pend u))).clearPending
      else s.setV (foldAll s.V (unitBytes s.pv s.pend u)) := by
  cases hp : s.pv with
  | false => cases hh : isHigh u <;> simp [State.acceptUnit, State.freshUnit_eq, unitBytes, hp, hh]
  | true =>
    cases hl : isLow u with
    | true => simp [State.acceptUnit, State.foldSeq_eq_setV, unitBytes, hp, hl, isHigh_of_isLow hl]
    | false =>
      cases hh : isHigh u <;>
        simp [State.acceptUnit, State.freshUnit_eq, State.foldSeq_eq_setV, unitBytes, hp, hl, hh]

/-- The pending surrogate flushed (R127). -/
theorem State.flushPending_eq (s : State) :
    s.flushPending = (s.setV (foldAll s.V (endBytes s.pv s.pend))).clearPending := by
  cases hp : s.pv <;> simp [State.flushPending, endBytes, hp, State.foldSeq_eq_setV]

/-! ## The rejection and the checks -/

/-- The first cause is kept (R201). -/
theorem State.firstCause_of_err {s : State} (h : s.err = true) (code : BitVec 4) : s.firstCause code = s.ecode := by
  simp [State.firstCause, h]

theorem State.firstCause_of_not_err {s : State} (h : s.err = false) (code : BitVec 4) : s.firstCause code = code := by
  simp [State.firstCause, h]

/-- A cause code is 1, 2, 3 or 4 (R202). -/
theorem causeCode_range (c : Cause) : 1#4 ≤ causeCode c ∧ causeCode c ≤ 4#4 := by
  cases c <;> decide

/-- The state checks read DONE and PV only (R205). -/
theorem State.sequenceError_congr {s t : State} (hd : s.done = t.done) (hp : s.pv = t.pv) (i : Instr) :
    s.sequenceError i = t.sequenceError i := by
  cases i <;> simp [State.sequenceError, hd, hp]

@[simp] theorem State.sequenceError_cmdError (s : State) (c : Cause) (i : Instr) :
    (s.cmdError c).sequenceError i = s.sequenceError i :=
  State.sequenceError_congr rfl rfl i

/-! ## The host's stream -/

theorem State.takeEvent_nil {s : State} (h : s.hostIn = []) : s.takeEvent = none := by
  simp [State.takeEvent, h]

theorem State.takeEvent_cons {s : State} {e : HostEvent} {es : List HostEvent} (h : s.hostIn = e :: es) :
    s.takeEvent = some (e, s.setHostIn es) := by
  simp [State.takeEvent, h]

@[simp] theorem State.setHostIn_setHostIn (s : State) (es fs : List HostEvent) :
    (s.setHostIn es).setHostIn fs = s.setHostIn fs := rfl

@[simp] theorem State.setHostIn_self (s : State) : s.setHostIn s.hostIn = s := rfl

/-! ## What one command can do -/

/-- The inversion of `exec`: a command is rejected by a state check, or it has its own effect. -/
theorem exec_cases {i : Instr} {s t : State} (h : exec i s = .next t) :
    (∃ c, s.sequenceError i = some c ∧ t = s.cmdError c) ∨
    (s.sequenceError i = none ∧
      ((i = .nop ∧ t = s) ∨
       (i = .init ∧ t = (s.setBasis.clearPending.setDone false).clearError) ∨
       (∃ u, i = .unit u ∧ t = s.acceptUnit u) ∨
       (i = .endInput ∧ t = s.flushPending.setDone true) ∨
       (∃ b, i = .fold b ∧ t = s.fold b) ∨
       (∃ b, i = .hexb b ∧ t = s.setHexr (hex b)))) := by
  cases i with
  | nop => exact .inr ⟨rfl, .inl ⟨rfl, by simpa [exec, execNop] using h.symm⟩⟩
  | init => exact .inr ⟨rfl, .inr (.inl ⟨rfl, by simpa [exec, execInit] using h.symm⟩)⟩
  | unit u =>
    cases hc : s.sequenceError (.unit u) with
    | some c => exact .inl ⟨c, rfl, by simpa [exec, execUnit, hc] using h.symm⟩
    | none => exact .inr ⟨rfl, .inr (.inr (.inl ⟨u, rfl, by simpa [exec, execUnit, hc] using h.symm⟩))⟩
  | endInput =>
    exact .inr ⟨rfl, .inr (.inr (.inr (.inl ⟨rfl, by simpa [exec, execEndInput] using h.symm⟩)))⟩
  | fold b =>
    cases hc : s.sequenceError (.fold b) with
    | some c => exact .inl ⟨c, rfl, by simpa [exec, execFold, hc] using h.symm⟩
    | none =>
      exact .inr ⟨rfl, .inr (.inr (.inr (.inr (.inl ⟨b, rfl, by simpa [exec, execFold, hc] using h.symm⟩))))⟩
  | hexb b =>
    exact .inr ⟨rfl, .inr (.inr (.inr (.inr (.inr ⟨b, rfl, by simpa [exec, execHexb] using h.symm⟩))))⟩

end Sys2Proof.Machine
end

