-- ==== Sys2Proof/Laws/PerInstr.lean ====
section
/-! SUPPORT. Statements made instruction by instruction (LAWS.json): each command's word has the match and mask of its row of
the opcode table (R73). -/

namespace Sys2Proof.Laws.TableRow

open Sys2Proof Sys2Proof.Machine

/-- The `mask` column of R73. -/
def mask : Instr → Word
  | .nop => 0xFFFFFFFF#32
  | .init => 0xFFFFFFFF#32
  | .unit _ => 0xFFFF0000#32
  | .endInput => 0xFFFFFFFF#32
  | .fold _ => 0xFFFFFF00#32
  | .hexb _ => 0xFFFFFF00#32

/-- The `match` column of R73. -/
def pattern : Instr → Word
  | .nop => 0x00000000#32
  | .init => 0x01000000#32
  | .unit _ => 0x02000000#32
  | .endInput => 0x03000000#32
  | .fold _ => 0x04000000#32
  | .hexb _ => 0x05000000#32

/-- The word of the command has its row's fixed bits (R73), and the command is well-formed syntax. -/
def Statement (i : Instr) : Prop := encode i &&& mask i = pattern i ∧ i.wf = true

/-- Masking off the low part of a word leaves its high part. -/
theorem append_masked {n m : Nat} (h : BitVec n) (l : BitVec m) :
    (h ++ l) &&& (BitVec.allOnes n ++ 0#m) = h ++ 0#m := by
  rw [BitVec.and_append, BitVec.and_allOnes, BitVec.and_zero]

/-- UNIT's word is its fixed half and its code unit (R73). -/
theorem encode_unit (u : CodeUnit) : encode (.unit u) = (0x0200#16 ++ u : BitVec (16 + 16)) := by
  apply BitVec.eq_of_toNat_eq
  have := u.isLt
  rw [encode, formatC_toNat, BitVec.toNat_append, ← Nat.shiftLeft_add_eq_or_of_lt this, Nat.shiftLeft_eq]
  simp only [Instr.opc, Instr.imm, BitVec.toNat_ofNat]
  omega

/-- A byte command's word is its 24 fixed bits and its byte (R73). -/
theorem formatC_byte (opc : BitVec 8) (b : Byte) :
    formatC opc 0x00#8 (immOfByte b) = ((opc ++ 0x0000#16 : BitVec (8 + 16)) ++ b : BitVec (8 + 16 + 8)) := by
  apply BitVec.eq_of_toNat_eq
  have h0 := b.isLt
  have h1 : (0x0000#16).toNat < 2 ^ 16 := by decide
  rw [formatC_toNat, immOfByte_toNat, BitVec.toNat_append, ← Nat.shiftLeft_add_eq_or_of_lt h0, BitVec.toNat_append,
    ← Nat.shiftLeft_add_eq_or_of_lt h1, Nat.shiftLeft_eq, Nat.shiftLeft_eq]
  simp only [BitVec.toNat_ofNat]
  omega

theorem nop : Statement .nop := ⟨by decide, rfl⟩

theorem init : Statement .init := ⟨by decide, rfl⟩

theorem unit (u : CodeUnit) : Statement (.unit u) := by
  refine ⟨?_, rfl⟩
  rw [encode_unit]
  exact append_masked (0x0200#16) u

theorem endInput : Statement .endInput := ⟨by decide, rfl⟩

theorem fold (b : Byte) : Statement (.fold b) := by
  refine ⟨?_, rfl⟩
  rw [encode, Instr.imm, Instr.opc, formatC_byte]
  exact append_masked (0x04#8 ++ 0x0000#16) b

theorem hexb (b : Byte) : Statement (.hexb b) := by
  refine ⟨?_, rfl⟩
  rw [encode, Instr.imm, Instr.opc, formatC_byte]
  exact append_masked (0x05#8 ++ 0x0000#16) b

end Sys2Proof.Laws.TableRow
end

