-- ==== Sys2Proof/Tests/Slice0.lean ====
section
/-! SUPPORT. The model's own tests: the checks of WellFormed refuse an ill-formed term each; words written out from R73 decode;
vectors of spec/95_test_vectors.md, one step each; the assembler; and, for every statement with hypotheses, states and operands
that meet them. Expected values come from the spec (the row is named), never from the model. -/

namespace Sys2Proof.Tests

open Sys2Proof Sys2Proof.Machine

/-! ## Helpers -/

/-- The state an outcome goes on in. -/
def nextState : Host.Outcome State Fault Refusal → Option State
  | .next t => some t
  | .fault _ => none
  | .refused _ => none

/-- A state with this V, the rest as after reset. -/
def withV (v : Hash) : State := State.reset.setV v

/-- A high surrogate pending, at either end of its range. -/
def pendingLowest : State := State.reset.setPending 0xD800#16
def pendingHighest : State := State.reset.setPending 0xDBFF#16

/-- The input closed. -/
def ended : State := State.reset.setDone true

/-- A rejection on record, with the highest code. -/
def withError : State := State.reset.cmdError .afterEnd

/-- What the host reads in an outcome's state. -/
def readAfter (o : Host.Outcome State Fault Refusal) (a : RdAddr) : Option RdData := (nextState o).map fun t => t.rd a

/-- V in an outcome's state. -/
def hashAfter (o : Host.Outcome State Fault Refusal) : Option Hash := (nextState o).map State.V

/-! ## WellFormed refuses an ill-formed term for each check (R74, R75, R78; words of T5) -/

theorem test_illFormed_opcode : wordWf 0x06000000#32 = false ∧ opcodeLegal 0x06000000#32 = false := by decide
theorem test_illFormed_rsv : wordWf 0x02010061#32 = false ∧ rsvClear 0x02010061#32 = false := by decide
theorem test_illFormed_immNone : wordWf 0x03000100#32 = false ∧ immLegal 0x03000100#32 = false := by decide
theorem test_illFormed_immByte : wordWf 0x04000161#32 = false ∧ immLegal 0x04000161#32 = false := by decide
theorem test_reservedFieldWord :
    reservedFieldWord 0x00000001#32 = true ∧ reservedFieldWord 0xFFFFFFFF#32 = false ∧
    reservedFieldWord 0x0200FFFF#32 = false := by decide
theorem test_wellFormed_words :
    wordWf 0x00000000#32 = true ∧ wordWf 0x0200FFFF#32 = true ∧ wordWf 0x040000FF#32 = true ∧
    wordWf 0x050000FF#32 = true := by decide
theorem test_illFormed_unitOperand : (AsmLine.unit 0x10000).wf = false ∧ (AsmLine.units [0, 0x10000]).wf = false := by decide
theorem test_illFormed_byteOperand :
    (AsmLine.fold 0x100).wf = false ∧ (AsmLine.hexb 0x100).wf = false ∧ (AsmLine.bytes [0x100]).wf = false := by decide
theorem test_illFormed_charLiteral : (AsmLine.unitChar '😀').wf = false := by decide
theorem test_illFormed_rawWord : (AsmLine.word 0x100000000).wf = false := by decide

/-! ## Decoding the bit patterns of R73 -/

theorem test_decode_nop : decode 0b00000000000000000000000000000000#32 = .cmd .nop := by decide
theorem test_decode_init : decode 0b00000001000000000000000000000000#32 = .cmd .init := by decide
theorem test_decode_unit : decode 0b00000010000000001101100000111101#32 = .cmd (.unit 0xD83D#16) := by decide
theorem test_decode_end : decode 0b00000011000000000000000000000000#32 = .cmd .endInput := by decide
theorem test_decode_fold : decode 0b00000100000000000000000011000001#32 = .cmd (.fold 0xC1#8) := by decide
theorem test_decode_hexb : decode 0b00000101000000000000000010100101#32 = .cmd (.hexb 0xA5#8) := by decide
theorem test_encode : encode (.unit 0xD83D#16) = 0x0200D83D#32 ∧ encode (.hexb 0xA5#8) = 0x050000A5#32 := by decide
theorem test_decodeTableWord : decodeTableWord 32 0x04000061 = some (.fold 0x61#8) ∧ decodeTableWord 32 0x07000000 = none := by
  decide

/-! ## One step of each command, with the vectors of spec/95_test_vectors.md -/

/-- T4: NOP keeps the pending unit. -/
theorem test_nop : nextState (exec .nop pendingHighest) = some pendingHighest := by decide

/-- T4: INIT discards the pending unit unfolded; HEXB 0xAB ; INIT keeps HEXR = 0x6162. -/
theorem test_init :
    readAfter (exec .init pendingHighest) 0x4#4 = some 0x0000#16 ∧
    readAfter (exec .init (State.reset.setHexr 0x6162#16)) 0x6#4 = some 0x6162#16 := by decide

/-- T3: [0xD83D] then 0x4E2D folds six bytes in one UNIT; END of that input has this digest. -/
theorem test_unit_six_bytes :
    hashAfter (exec (.unit 0x4E2D#16) (State.reset.setPending 0xD83D#16)) = some 0xa0d4efafb648c052#64 := by decide

/-- T3: the pair [0xD83D, 0xDE00], its second unit. -/
theorem test_unit_pair :
    hashAfter (exec (.unit 0xDE00#16) (State.reset.setPending 0xD83D#16)) = some 0xfeff073875020288#64 ∧
    readAfter (exec (.unit 0xDE00#16) (State.reset.setPending 0xD83D#16)) 0x4#4 = some 0x0000#16 := by decide

/-- T3: a lone HIGH at the end. -/
theorem test_end_lone_high :
    hashAfter (exec .endInput pendingHighest) = some 0x5bed121b8aaed47e#64 ∧
    readAfter (exec .endInput pendingHighest) 0x4#4 = some 0x0002#16 := by decide

/-- T2: two rows, one of them with the limbs at their ends. -/
theorem test_fold :
    hashAfter (exec (.fold 0xFF#8) (withV 0xffffffffffffffff#64)) = some 0xfffefffffffe4d00#64 ∧
    hashAfter (exec (.fold 0x61#8) State.reset) = some 0xaf63dc4c8601ec8c#64 := by decide

/-- R155's trace of the datapath for FOLD 0x61 after reset. -/
theorem test_limbTemps :
    limbTemps 0x2325#16 0x8422#16 0x9ce4#16 0xcbf2#16 0x61#8 = ⟨0x3BEC8C, 0xE08601, 0x12DDC4C, 0x1DEAF63⟩ := by decide

/-- T1: the digit and letter boundary, and R103's example. -/
theorem test_hexb :
    readAfter (exec (.hexb 0x9A#8) State.reset) 0x6#4 = some 0x3961#16 ∧
    readAfter (exec (.hexb 0xA5#8) State.reset) 0x6#4 = some 0x6135#16 := by decide

/-- T5: an illegal opcode with every other bit set has code 1; a reserved field after END has code 2; a later rejection keeps
the first code. -/
theorem test_rejections :
    readAfter (applyWord 0xFFFFFFFF#32 State.reset) 0x4#4 = some 0x0014#16 ∧
    readAfter (applyWord 0x04000161#32 ended) 0x4#4 = some 0x0026#16 ∧
    readAfter (applyWord 0x02000061#32 (ended.cmdError .illegalOpcode)) 0x4#4 = some 0x0016#16 := by decide

/-- T5: FOLD with a unit pending. -/
theorem test_fold_pending : readAfter (applyWord 0x04000061#32 pendingHighest) 0x4#4 = some 0x0035#16 := by decide

/-- T6: the read port after DIGEST "a". -/
theorem test_read_port :
    (withV 0xaf63dc4c8601ec8c#64).rd 0x0#4 = 0xEC8C#16 ∧ (withV 0xaf63dc4c8601ec8c#64).rd 0x3#4 = 0xAF63#16 ∧
    (withV 0xaf63dc4c8601ec8c#64).rd 0x8#4 = 0x6166#16 ∧ (withV 0xaf63dc4c8601ec8c#64).rd 0xB#4 = 0x3463#16 ∧
    (withV 0xaf63dc4c8601ec8c#64).rd 0xF#4 = 0x3863#16 := by decide

/-- T3: the bytes of HIGH, HIGH, LOW, and of a reversed pair. -/
theorem test_encodeUnits :
    encodeUnits [0xD800#16, 0xD800#16, 0xDC00#16] = [0xED#8, 0xA0#8, 0x80#8, 0xF0#8, 0x90#8, 0x80#8, 0x80#8] ∧
    encodeUnits [0xDE00#16, 0xD83D#16] = [0xED#8, 0xB8#8, 0x80#8, 0xED#8, 0xA0#8, 0xBD#8] := by decide

/-- S2: the source's digest("a"). -/
theorem test_digest_a :
    digest [0x0061#16] = ['a', 'f', '6', '3', 'd', 'c', '4', 'c', '8', '6', '0', '1', 'e', 'c', '8', 'c'] := by decide

/-- A step runs the word the host puts in front of its stream. -/
theorem test_step_fetch : hashAfter (step (State.reset.withFetchWord 32 0x02000061)) = some 0xaf63dc4c8601ec8c#64 := by decide

/-! ## The assembler (R78, R79; words of P1 and P3) -/

theorem test_asm_unit :
    assembleText ['u', 'n', 'i', 't', ' ', '\'', 'a', '\'', ' ', ';', 'x'] = some [.command 0x02000061#32] := by decide
theorem test_asm_text :
    assembleText ['T', 'E', 'X', 'T', ' ', '"', 'a', '😀', '"'] =
      some [.command 0x02000061#32, .command 0x0200D83D#32, .command 0x0200DE00#32] := by decide
theorem test_asm_refused : assembleText ['F', 'O', 'L', 'D', ' ', '0', 'x', '1', '0', '0'] = none := by decide
theorem test_asm_rd :
    assembleProgram [['R', 'D', ' ', 'D', 'I', 'G', '7'], ['.', 'w', 'o', 'r', 'd', ' ', '0', 'x', '7', '0']] =
      some [.read 0xF#4, .command 0x00000070#32] := by decide

/-! ## The hypotheses of the statements can be met: one witness for each statement that has any, each clause at an end of its
range -/

theorem witness_ResetGivesEveryRegisterItsValue :
    (∃ s t : State, s ≠ t ∧ t = s.applyReset) ∧ ∃ t : State, t = State.reset :=
  ⟨⟨pendingHighest, _, by decide, rfl⟩, _, rfl⟩

theorem witness_ResetIsTheStateInitLeaves : ∃ s t : State, exec .init s = .next t ∧ s.hexr = 0x0000#16 :=
  ⟨pendingHighest, _, rfl, rfl⟩

theorem witness_EveryStepKeepsTheInvariant :
    ∃ s t : State, s.Inv ∧ step s = .next t ∧ t.pv = true :=
  ⟨State.reset.withFetchWord 32 0x0200DBFF, _, by decide, rfl, rfl⟩

theorem witness_StepRunsTheDecodedCommand :
    ∃ (s : State) (w : Word) (rest : List HostEvent) (i : Instr),
      s.hostIn = .command w :: rest ∧ decode w = .cmd i :=
  ⟨State.reset.setHostIn [.command 0x0200FFFF#32, .reset], 0x0200FFFF#32, [.reset], .unit 0xFFFF#16, rfl, by decide⟩

theorem witness_StepTakesTheOtherHostEvents :
    (∃ (s : State) (w : Word) (c : Cause), s.hostIn = [.command w] ∧ decode w = .reject c) ∧
    (∃ s : State, s.hostIn = [.read 0xF#4]) ∧ (∃ s : State, s.hostIn = [.reset]) ∧ ∃ s : State, s.hostIn = [] :=
  ⟨⟨State.reset.setHostIn [.command 0x06000000#32], 0x06000000#32, .illegalOpcode, rfl, by decide⟩,
   ⟨State.reset.setHostIn [.read 0xF#4], rfl⟩, ⟨State.reset.setHostIn [.reset], rfl⟩, State.reset, rfl⟩

theorem witness_DecoderFollowsTheFields : ∃ o r i : Nat, o < 256 ∧ r < 256 ∧ i < 65536 := ⟨255, 255, 65535, by decide⟩

theorem witness_IllegalOpcodesAreRejected :
    6 ≤ (0x06000000#32).toNat / 2 ^ 24 ∧ 6 ≤ (0xFFFFFFFF#32).toNat / 2 ^ 24 := by decide

theorem witness_ReservedFieldWordsAreRejected :
    decode 0x00010000#32 = .reject .reservedField ∧ decode 0x00000001#32 = .reject .reservedField ∧
    decode 0x05000100#32 = .reject .reservedField := by decide

theorem witness_RejectionLeavesNoOtherEffect :
    (decode 0x06000000#32 = .reject .illegalOpcode ∧ withError.err = true) ∧
    (decode 0x02000000#32 = .cmd (.unit 0x0000#16) ∧ ended.sequenceError (.unit 0x0000#16) = some .afterEnd) ∧
    (decode 0x04000000#32 = .cmd (.fold 0x00#8) ∧ pendingLowest.sequenceError (.fold 0x00#8) = some .foldPending) := by decide

theorem witness_SequencingRejections :
    (∃ t, exec .endInput pendingLowest = .next t) ∧ (∃ t, exec .init ended = .next t) ∧ ended.done = true ∧
    (pendingLowest.pv = true ∧ pendingLowest.done = false) :=
  ⟨⟨_, rfl⟩, ⟨_, rfl⟩, rfl, rfl, rfl⟩

/-- The five clauses at words 0x06000000, 0x05000100, 0x04000000 after END, 0x04000000 while a unit is pending, and 0x05000000;
and the invariant. -/
theorem witness_ChecksAreMadeInOrder :
    6 ≤ (0x06000000#32).toNat / 2 ^ 24 ∧
    ((0x05000100#32).toNat / 2 ^ 24 < 6 ∧ (0x05000100#32).toNat / 2 ^ 8 % 2 ^ 8 ≠ 0) ∧
    ((0x04000000#32).toNat / 2 ^ 24 = 4 ∧ (0x04000000#32).toNat / 2 ^ 16 % 2 ^ 8 = 0 ∧
      (0x04000000#32).toNat / 2 ^ 8 % 2 ^ 8 = 0 ∧ ended.done = true) ∧
    (pendingLowest.done = false ∧ pendingLowest.pv = true) ∧
    ((0x05000000#32).toNat / 2 ^ 24 = 5 ∧ (0x05000000#32).toNat / 2 ^ 8 % 2 ^ 16 = 0 ∧ ended.done = true) ∧
    pendingLowest.Inv := by decide

theorem witness_OnlyInitAndResetClearTheRecord :
    (∃ t, withError.err = true ∧ decode 0x05000000#32 ≠ .cmd .init ∧ applyWord 0x05000000#32 withError = .next t) ∧
    (∃ t, exec .init withError = .next t) ∧
    ∃ (ws : List Word) (t : State), ws ≠ [] ∧ (∀ w ∈ ws, decode w ≠ .cmd .init) ∧
      applyWords ws State.reset = .next t ∧ t.err = false :=
  ⟨⟨_, rfl, by decide, rfl⟩, ⟨_, rfl⟩, [0x0200D83D#32, 0x00000000#32], _, by decide, by
    intro w hw
    rcases List.mem_cons.1 hw with rfl | hw
    · decide
    · rw [List.mem_singleton.1 hw]
      decide, rfl, rfl⟩

theorem witness_NopDoesNothing :
    (0x00FFFFFF#32).toNat < 2 ^ 24 ∧ (0x00FFFFFF#32) ≠ 0x00000000#32 := by decide

theorem witness_InitStartsANewDigest :
    (0x01FFFFFF#32).toNat / 2 ^ 24 = 1 ∧ (0x01FFFFFF#32) ≠ 0x01000000#32 := by decide

theorem witness_HexbWritesTheTwoCharacters :
    (∃ t, exec (.hexb 0xFF#8) ended = .next t ∧ (0xF#4 : RdAddr) ≠ 0x6#4) ∧
    ((0x05FFFFFF#32).toNat / 2 ^ 24 = 5 ∧ (0x05FFFFFF#32).toNat / 2 ^ 8 % 2 ^ 16 ≠ 0) ∧
    ∃ t, applyWord 0x050000A5#32 ended = .next t :=
  ⟨⟨_, rfl, by decide⟩, by decide, _, rfl⟩

theorem witness_FoldFoldsTheRawByte :
    (State.reset.done = false ∧ State.reset.pv = false) ∧ ended.done = true ∧
    (pendingLowest.done = false ∧ pendingLowest.pv = true) ∧
    ((0x040000FF#32).toNat / 2 ^ 24 = 4 ∧ (0x04000100#32).toNat / 2 ^ 24 = 4 ∧
      (0x04000100#32).toNat / 2 ^ 8 % 2 ^ 16 ≠ 0) := by decide

/-- A unit of each class at its ends, for each case of PV. -/
theorem witness_UnitFoldsWhatItCompletes :
    ended.done = true ∧ (pendingLowest.done = false ∧ pendingLowest.pv = true) ∧
    (State.reset.done = false ∧ State.reset.pv = false) ∧
    (0xDC00 ≤ (0xDFFF#16).toNat ∧ (0xDFFF#16).toNat ≤ 0xDFFF) ∧ (0xD800 ≤ (0xD800#16).toNat ∧ (0xD800#16).toNat ≤ 0xDBFF) ∧
    (¬ 0xD800 ≤ (0xD7FF#16).toNat ∧ ¬ (0xE000#16).toNat ≤ 0xDFFF) := by decide

theorem witness_UnitByteCounts :
    (∃ t, Instr.endInput ≠ .init ∧ exec .endInput pendingHighest = .next t) ∧
    (∃ t, pendingHighest.done = false ∧ exec (.unit 0xE000#16) pendingHighest = .next t) ∧
    ∃ t, State.reset.done = false ∧ exec (.unit 0xDBFF#16) State.reset = .next t :=
  ⟨⟨_, by decide, rfl⟩, ⟨_, rfl, rfl⟩, _, rfl, rfl⟩

theorem witness_EndClosesTheInput :
    (ended.Inv ∧ ended.done = true) ∧ (∃ t, exec .init pendingHighest = .next t) ∧ pendingHighest.pv = true :=
  ⟨by decide, ⟨_, rfl⟩, rfl⟩

theorem witness_EveryCodeUnitIsAccepted : State.reset.done = false ∧ [(0xFFFF#16 : CodeUnit)] ≠ [] := by decide

theorem witness_LoneSurrogatesKeepTheirValue :
    isHigh 0xD800#16 = true ∧ isHigh 0xDBFF#16 = true ∧ isLow 0xDC00#16 = true ∧ isLow 0xDFFF#16 = true ∧
    (State.reset.done = false ∧ State.reset.pv = false) ∧
    (pendingHighest.done = false ∧ pendingHighest.pv = true ∧ isLow 0xDBFF#16 = false) := by decide

theorem witness_WritersOfEachRegister :
    (∃ t, exec .nop ended = .next t) ∧ (∃ t, exec (.hexb 0x00#8) ended = .next t) ∧
    (∃ t, exec (.fold 0xFF#8) State.reset = .next t ∧ State.reset.sequenceError (.fold 0xFF#8) = none) ∧
    ∃ t, exec (.unit 0x0061#16) ended = .next t ∧ ended.sequenceError (.unit 0x0061#16) ≠ none :=
  ⟨⟨_, rfl⟩, ⟨_, rfl⟩, ⟨_, rfl, rfl⟩, _, rfl, by decide⟩

theorem witness_IdempotentCommands :
    (∃ t, exec .endInput pendingHighest = .next t) ∧
    ∃ t, ended.acceptsWord 0x04000000#32 = false ∧ applyWord 0x04000000#32 ended = .next t :=
  ⟨⟨_, rfl⟩, _, by decide, rfl⟩

theorem witness_FoldIsXorThenMultiply : ∃ s t : State, s ≠ t ∧ t.V = s.V := ⟨ended, State.reset, by decide, rfl⟩

theorem witness_LimbTemporariesFit :
    ∃ t, t = limbTemps 0xFFFF#16 0xFFFF#16 0xFFFF#16 0xFFFF#16 0xFF#8 := ⟨_, rfl⟩

/-- Both ends of each form. -/
theorem witness_OneTwoAndThreeByteForms :
    (0x007F#16).toNat < 0x80 ∧ (0x80 ≤ (0x0080#16).toNat ∧ (0x07FF#16).toNat < 0x800) ∧ 0x800 ≤ (0x0800#16).toNat ∧
    0xC2#8 ∈ (enc2 0x0080#16).head? ∧ 0xEF#8 ∈ (enc3 0xFFFF#16).head? := by decide

theorem witness_FourByteForm :
    0x10FFFF = 0x10000 + (((0xDBFF#16).toNat &&& 0x3FF) <<< 10) + ((0xDFFF#16).toNat &&& 0x3FF) ∧
    0xF4#8 ∈ (enc4 (pair 0xDBFF#16 0xDFFF#16)).head? := by decide

theorem witness_ByteSequenceEquations :
    (0x007F#16).toNat < 0x80 ∧ (0x80 ≤ (0x07FF#16).toNat ∧ (0x07FF#16).toNat < 0x800) ∧
    (0xD800 ≤ (0xD800#16).toNat ∧ (0xD800#16).toNat ≤ 0xDBFF ∧ 0xDC00 ≤ (0xDFFF#16).toNat ∧ (0xDFFF#16).toNat ≤ 0xDFFF) ∧
    (0x800 ≤ (0xDBFF#16).toNat ∧
      ¬ (0xD800 ≤ (0xDBFF#16).toNat ∧ (0xDBFF#16).toNat ≤ 0xDBFF ∧ 0xDC00 ≤ (0xE000#16).toNat ∧ (0xE000#16).toNat ≤ 0xDFFF)) := by
  decide

theorem witness_StreamingEquivalence : State.reset.done = false ∧ State.reset.pv = false := ⟨rfl, rfl⟩

theorem witness_ProducedByteRanges :
    0xF4#8 ∈ encodeUnits [0xDBFF#16, 0xDFFF#16] ∧ ((0x007F#16).toNat < 0x80 ∧ 0x7F#8 ∈ enc1 0x007F#16) ∧
    0xBF#8 ∈ (enc2 0x07FF#16).tail ++ (enc3 0x07FF#16).tail ∧ 0x80#8 ∈ (enc4 (pair 0xD800#16 0xDC00#16)).tail ∧
    isLow 0xDFFF#16 = true := by decide

theorem witness_AtMostThreeBytesPerUnit : State.reset.done = false ∧ State.reset.pv = false := ⟨rfl, rfl⟩

theorem witness_HexRomGridAndProperties :
    hex 0xFF#8 = hex 0xFF#8 ∧ (0xF0#8).toNat / 16 = (0xFF#8).toNat / 16 ∧ (0x0F#8).toNat % 16 = (0xFF#8).toNat % 16 ∧
    0x66#8 ∈ hexstr 0xFF#8 := by decide

/-- Every address of the map meets one clause. -/
theorem witness_ReadPortMap :
    ∀ n < 8, ∃ a : RdAddr, a.toNat = n ∧ 8 ≤ (0x8#4 : RdAddr).toNat ∧ 8 ≤ (0xF#4 : RdAddr).toNat := by
  intro n hn
  exact ⟨BitVec.ofNat 4 n, by rw [BitVec.toNat_ofNat]; omega, by decide, by decide⟩

theorem witness_StatusLayout :
    withError.Inv ∧ (∃ t, applyRead 0xF#4 withError = .next t) ∧
    ∃ t, withError.err = true ∧ decode 0x00000000#32 ≠ .cmd .init ∧ applyWord 0x00000000#32 withError = .next t :=
  ⟨by decide, ⟨_, rfl⟩, _, rfl, by decide, rfl⟩

theorem witness_PendReads :
    (pendingLowest.Inv ∧ pendingLowest.pv = true) ∧ (pendingHighest.Inv ∧ pendingHighest.pv = true) ∧
    (ended.Inv ∧ ended.pv = false) ∧ ∃ t, applyRead 0x5#4 pendingHighest = .next t :=
  ⟨by decide, by decide, by decide, _, rfl⟩

theorem witness_HexrIsWrittenByHexbAndResetOnly :
    (∃ t, (∀ b, decode 0x04000061#32 ≠ .cmd (.hexb b)) ∧ applyWord 0x04000061#32 State.reset = .next t) ∧
    ∃ t, exec .init ended = .next t :=
  ⟨⟨_, fun b h => by
      have e : decode 0x04000061#32 = .cmd (.fold 0x61#8) := by decide
      rw [e] at h
      simp at h, rfl⟩, _, rfl⟩

theorem witness_DigestStringIsTheValueInHex : 0 < 16 ∧ 15 < 16 := by decide

theorem witness_HostReadsTheDigestOfEveryText :
    ∃ (text : List CodeUnit) (s : State) (rest : List HostEvent), text ≠ [] ∧
      s.hostIn = (digestCommands text).map emit ++ digAddrs.map .read ++ rest :=
  ⟨[0xDBFF#16], pendingHighest.setHostIn ((digestCommands [0xDBFF#16]).map emit ++ digAddrs.map .read ++ [.reset]), [.reset],
   by decide, rfl⟩

theorem witness_ReadsSeeEveryEarlierCommand :
    ∃ (ws : List Word) (a : RdAddr) (rest : List HostEvent) (s t : State), ws ≠ [] ∧
      s.hostIn = ws.map .command ++ .read a :: rest ∧ applyWords ws s = .next t :=
  ⟨[0x02000061#32], 0xF#4, [.reset], State.reset.setHostIn [.command 0x02000061#32, .read 0xF#4, .reset], _,
   by decide, rfl, rfl⟩

theorem witness_NopAndHexbKeepMultiwordReads :
    ∃ (is : List Instr) (s t : State) (a : RdAddr), is ≠ [] ∧ (∀ i ∈ is, i = .nop ∨ ∃ b, i = .hexb b) ∧
      execAll is s = .next t ∧ (a.toNat < 4 ∨ 8 ≤ a.toNat) :=
  ⟨[.hexb 0xFF#8, .nop], ended, _, 0x3#4, by decide, by
    intro i hi
    rcases List.mem_cons.1 hi with rfl | hi
    · exact .inr ⟨_, rfl⟩
    · exact .inl (List.mem_singleton.1 hi), rfl, by decide⟩

theorem witness_AssemblyNeverWritesARejectedWord :
    (∃ (l : AsmLine) (es : List HostEvent) (w : Word), assembleLine l = some es ∧ (∀ n, l ≠ .word n) ∧ .command w ∈ es) ∧
    0xFFFF < 0x10000 ∧ 0xFF < 0x100 :=
  ⟨⟨.fold 0xFF, [.command 0x040000FF#32], 0x040000FF#32, by decide, fun n h => by simp at h, by decide⟩, by decide, by decide⟩

theorem witness_PseudoInstructionExpansions : 'a'.toNat ≤ 0xFFFF ∧ 0xFFFF < '😀'.toNat := by decide

theorem witness_NarrowBusDeliversEveryWord : ∃ (bytes : Fin 4 → Byte) (w : Word), cmdWordOfBytes bytes = w :=
  ⟨fun _ => 0xFF#8, _, rfl⟩

end Sys2Proof.Tests
end

/-! # Proofs: the state's pieces and the read port

Layers: the rules of the decoded commands and of one word on the command port, the rules of the read port, then the statements
on DONE, STATUS, PEND, HEXR and the digest words. -/

namespace Sys2Proof.Machine

/-! ## Updates that commute with writing DONE -/

@[simp] theorem State.setBasis_setDone (s : State) (d : Bool) : (s.setDone d).setBasis = s.setBasis.setDone d := rfl

@[simp] theorem State.clearPending_setDone (s : State) (d : Bool) :
    (s.setDone d).clearPending = s.clearPending.setDone d := rfl

@[simp] theorem State.setV_setDone (s : State) (d : Bool) (v : Hash) : (s.setDone d).setV v = (s.setV v).setDone d := rfl

@[simp] theorem State.setHexr_setDone (s : State) (d : Bool) (x : RdData) :
    (s.setDone d).setHexr x = (s.setHexr x).setDone d := rfl

@[simp] theorem State.setDone_setDone (s : State) (d e : Bool) : (s.setDone d).setDone e = s.setDone e := rfl

@[simp] theorem State.flushPending_setDone (s : State) (d : Bool) :
    (s.setDone d).flushPending = s.flushPending.setDone d := by
  simp [State.flushPending_eq]

/-! ## What the accepted UNIT keeps (R126) -/

@[simp] theorem State.acceptUnit_done (s : State) (u : CodeUnit) : (s.acceptUnit u).done = s.done := by
  simp [State.acceptUnit_eq, apply_ite State.done]

@[simp] theorem State.acceptUnit_err (s : State) (u : CodeUnit) : (s.acceptUnit u).err = s.err := by
  simp [State.acceptUnit_eq, apply_ite State.err]

@[simp] theorem State.acceptUnit_ecode (s : State) (u : CodeUnit) : (s.acceptUnit u).ecode = s.ecode := by
  simp [State.acceptUnit_eq, apply_ite State.ecode]

@[simp] theorem State.acceptUnit_hexr (s : State) (u : CodeUnit) : (s.acceptUnit u).hexr = s.hexr := by
  simp [State.acceptUnit_eq, apply_ite State.hexr]

/-! ## The commands, each in one equation -/

theorem exec_nop (s : State) : exec .nop s = .next s := rfl

theorem exec_init (s : State) : exec .init s = .next (s.setBasis.clearPending.setDone false).clearError := rfl

theorem exec_endInput (s : State) : exec .endInput s = .next (s.flushPending.setDone true) := rfl

theorem exec_hexb (b : Byte) (s : State) : exec (.hexb b) s = .next (s.setHexr (hex b)) := rfl

/-- A command that a state check rejects is the rejection (R201, R205). -/
theorem exec_of_sequenceError {i : Instr} {s : State} {c : Cause} (h : s.sequenceError i = some c) :
    exec i s = .next (s.cmdError c) := by
  cases i with
  | unit u => simp [exec, execUnit, h]
  | fold b => simp [exec, execFold, h]
  | nop | init | endInput | hexb b => simp [State.sequenceError] at h

/-- An accepted command other than INIT keeps ERR and ECODE (R207). -/
theorem exec_accepted_keeps_record {i : Instr} {s t : State} (h : exec i s = .next t) (hi : i ≠ .init)
    (ha : s.sequenceError i = none) : t.err = s.err ∧ t.ecode = s.ecode := by
  obtain ⟨c, hc, -⟩ | ⟨-, ⟨-, rfl⟩ | ⟨rfl, -⟩ | ⟨u, -, rfl⟩ | ⟨-, rfl⟩ | ⟨b, -, rfl⟩ | ⟨b, -, rfl⟩⟩ := exec_cases h
  · simp [ha] at hc
  · exact ⟨rfl, rfl⟩
  · exact absurd rfl hi
  · simp
  · simp [State.flushPending_eq]
  · simp [State.fold_eq_setV]
  · simp

/-- A command other than HEXB keeps HEXR (R29), rejected or not. -/
theorem exec_keeps_hexr {i : Instr} {s t : State} (h : exec i s = .next t) (hi : ∀ b, i ≠ .hexb b) :
    t.hexr = s.hexr := by
  obtain ⟨c, -, rfl⟩ | ⟨-, ⟨-, rfl⟩ | ⟨-, rfl⟩ | ⟨u, -, rfl⟩ | ⟨-, rfl⟩ | ⟨b, -, rfl⟩ | ⟨b, rfl, -⟩⟩ := exec_cases h
  · simp
  · rfl
  · simp
  · simp
  · simp [State.flushPending_eq]
  · simp [State.fold_eq_setV]
  · exact absurd rfl (hi b)

/-! ## One word on the command port -/

theorem applyWord_of_cmd {w : Word} {i : Instr} (h : decode w = .cmd i) (s : State) : applyWord w s = exec i s := by
  simp [applyWord, h]

theorem applyWord_of_reject {w : Word} {c : Cause} (h : decode w = .reject c) (s : State) :
    applyWord w s = .next (s.cmdError c) := by
  simp [applyWord, h]

/-- The inversion of `applyWord`: the word is rejected, by the decoder or by a state check, or it executes the command it
decodes to (R205). -/
theorem applyWord_cases {w : Word} {s t : State} (h : applyWord w s = .next t) :
    (∃ c, (decode w = .reject c ∨ ∃ i, decode w = .cmd i ∧ s.sequenceError i = some c) ∧ t = s.cmdError c) ∨
    (∃ i, decode w = .cmd i ∧ s.sequenceError i = none ∧ exec i s = .next t) := by
  cases hw : decode w with
  | reject c =>
    rw [applyWord_of_reject hw, Host.Outcome.next.injEq] at h
    exact .inl ⟨c, .inl rfl, h.symm⟩
  | cmd i =>
    rw [applyWord_of_cmd hw] at h
    cases hc : s.sequenceError i with
    | none => exact .inr ⟨i, rfl, hc, h⟩
    | some c =>
      rw [exec_of_sequenceError hc, Host.Outcome.next.injEq] at h
      exact .inl ⟨c, .inr ⟨i, rfl, hc⟩, h.symm⟩

/-- ERR is sticky: a word that is not INIT's leaves it set (R27, R207). -/
theorem applyWord_keeps_err {w : Word} {s t : State} (h : applyWord w s = .next t) (hw : decode w ≠ .cmd .init)
    (he : s.err = true) : t.err = true := by
  obtain ⟨c, -, rfl⟩ | ⟨i, hi, ha, hx⟩ := applyWord_cases h
  · exact State.cmdError_err s c
  · have hne : i ≠ .init := fun e => hw (e ▸ hi)
    exact (exec_accepted_keeps_record hx hne ha).1.trans he

/-- A word that is no HEXB's keeps HEXR (R29). -/
theorem applyWord_keeps_hexr {w : Word} {s t : State} (h : applyWord w s = .next t)
    (hw : ∀ b, decode w ≠ .cmd (.hexb b)) : t.hexr = s.hexr := by
  obtain ⟨c, -, rfl⟩ | ⟨i, hi, -, hx⟩ := applyWord_cases h
  · exact State.cmdError_hexr s c
  · exact exec_keeps_hexr hx fun b e => hw b (e ▸ hi)

/-! ## STATUS, bit by bit (R27) -/

/-- The flag bits of STATUS and its reserved bit 3. -/
theorem State.status_flag_bits (s : State) :
    s.status.getLsbD 0 = s.pv ∧ s.status.getLsbD 1 = s.done ∧ s.status.getLsbD 2 = s.err ∧
    s.status.getLsbD 3 = false := by
  simp only [State.status, BitVec.getLsbD_setWidth, BitVec.getLsbD_append]
  simp

/-- ERR, DONE and PV fill the three low bits. -/
theorem State.flags_toNat_lt (s : State) : s.err.toNat * 4 + s.done.toNat * 2 + s.pv.toNat < 8 := by
  have h0 := Bool.toNat_lt s.pv
  have h1 := Bool.toNat_lt s.done
  have h2 := Bool.toNat_lt s.err
  omega

/-- STATUS as a number. -/
theorem State.status_toNat (s : State) :
    s.status.toNat = s.ecode.toNat * 16 + s.err.toNat * 4 + s.done.toNat * 2 + s.pv.toNat := by
  have h0 : s.pv.toNat < 2 ^ 1 := Bool.toNat_lt s.pv
  have h1 : s.done.toNat < 2 ^ 1 := Bool.toNat_lt s.done
  have h2 : s.err.toNat < 2 ^ 1 := Bool.toNat_lt s.err
  have h3 := s.ecode.isLt
  have e : s.status.toNat = ((((s.ecode.toNat <<< 1 ||| 0) <<< 1 ||| s.err.toNat) <<< 1 ||| s.done.toNat) <<< 1 |||
      s.pv.toNat) % 2 ^ 16 := by
    simp only [State.status, BitVec.toNat_setWidth, BitVec.toNat_append, BitVec.toNat_ofBool]
    rfl
  rw [e, Nat.or_zero, ← Nat.shiftLeft_add_eq_or_of_lt h2, ← Nat.shiftLeft_add_eq_or_of_lt h1,
    ← Nat.shiftLeft_add_eq_or_of_lt h0]
  simp only [Nat.shiftLeft_eq]
  omega

theorem State.status_ecode_field (s : State) : s.status.extractLsb' 4 4 = s.ecode := by
  apply BitVec.eq_of_toNat_eq
  have hf := s.flags_toNat_lt
  have he := s.ecode.isLt
  rw [BitVec.extractLsb'_toNat, s.status_toNat, Nat.shiftRight_eq_div_pow]
  omega

theorem State.status_high_byte (s : State) : s.status.extractLsb' 8 8 = 0x00#8 := by
  apply BitVec.eq_of_toNat_eq
  have hf := s.flags_toNat_lt
  have he := s.ecode.isLt
  rw [BitVec.extractLsb'_toNat, s.status_toNat, Nat.shiftRight_eq_div_pow, BitVec.toNat_ofNat]
  omega

/-! ## The read port (R21, R57) -/

@[simp] theorem State.rd_status (s : State) : s.rd 0x4#4 = s.status := rfl

@[simp] theorem State.rd_pend (s : State) : s.rd 0x5#4 = s.pend := rfl

@[simp] theorem State.rd_hexr (s : State) : s.rd 0x6#4 = s.hexr := rfl

/-- The addresses from 0x8 on read the digest words (R30). -/
theorem State.rd_of_eight_le (s : State) {a : RdAddr} (h : 8 ≤ a.toNat) :
    s.rd a = hex (hashByte s.V (a.toNat - 8)) := by
  have hne : ∀ n < 8, a ≠ BitVec.ofNat 4 n := by
    intro n hn e
    rw [e, BitVec.toNat_ofNat] at h
    omega
  simp [State.rd, hne 0, hne 1, hne 2, hne 3, hne 4, hne 5, hne 6, hne 7]

/-- DIGk, at address 0x8 + k, is HEX of byte `k` of V (R30). -/
theorem State.rd_dig (s : State) (k : Fin 8) : s.rd (BitVec.ofNat 4 (8 + k.val)) = hex (hashByte s.V k.val) := by
  have ha : (BitVec.ofNat 4 (8 + k.val)).toNat = 8 + k.val := by
    rw [BitVec.toNat_ofNat]
    omega
  rw [s.rd_of_eight_le (by omega), ha, Nat.add_sub_cancel_left]

@[simp] theorem State.rd_logRead (s : State) (r : PortRead) (a : RdAddr) : (s.logRead r).rd a = s.rd a := rfl

/-- An access to the read port records its answer and does nothing else (R57). -/
theorem applyRead_cases {a : RdAddr} {s t : State} (h : applyRead a s = .next t) : t = s.logRead ⟨a, s.rd a⟩ := by
  simpa [applyRead] using h.symm

/-! ## The bytes of V and of its limbs (R51, R52) -/

/-- A byte inside limb `k` is the byte of V that stands `16 * k` bits higher (R22). -/
theorem byte_limbOf (k : Nat) (v : Hash) {start : Nat} (h : start + 8 ≤ 16) :
    (limbOf k v).extractLsb' start 8 = v.extractLsb' (16 * k + start) 8 := by
  ext i hi
  have hbit : start + i < 16 := by omega
  simp only [limbOf, BitVec.getElem_extractLsb', BitVec.getLsbD_extractLsb', hbit, decide_true, Bool.true_and,
    Nat.add_assoc]

/-- The high byte of limb `k` (R52) is byte `6 - 2 * k` of V, counted from the most significant. -/
theorem hashByte_highByte (v : Hash) {k : Nat} (h : k < 4) : hashByte v (6 - 2 * k) = highByte (limbOf k v) := by
  have hpos : 56 - 8 * (6 - 2 * k) = 16 * k + 8 := by omega
  rw [highByte, byte_limbOf k v (by decide), hashByte, hpos]

/-- The low byte of limb `k` is the byte after it. -/
theorem hashByte_lowByte (v : Hash) {k : Nat} (h : k < 4) : hashByte v (7 - 2 * k) = lowByte (limbOf k v) := by
  have hpos : 56 - 8 * (7 - 2 * k) = 16 * k + 0 := by omega
  rw [lowByte, byte_limbOf k v (by decide), hashByte, hpos]

/-- The two digest words of limb `k`: its high byte's at the even address, its low byte's at the next (R30, R52). -/
theorem State.rd_digestWords_of_limb (s : State) {k : Nat} (h : k < 4) :
    s.rd (BitVec.ofNat 4 (14 - 2 * k)) = hex (highByte (limbOf k s.V)) ∧
    s.rd (BitVec.ofNat 4 (15 - 2 * k)) = hex (lowByte (limbOf k s.V)) := by
  rw [← hashByte_highByte s.V h, ← hashByte_lowByte s.V h]
  have hi : 14 - 2 * k = 8 + (6 - 2 * k) := by omega
  have lo : 15 - 2 * k = 8 + (7 - 2 * k) := by omega
  rw [hi, lo]
  exact ⟨s.rd_dig ⟨6 - 2 * k, by omega⟩, s.rd_dig ⟨7 - 2 * k, by omega⟩⟩

/-! ## The bytes of a digit pair (R100) -/

@[simp] theorem highByte_hex (b : Byte) : highByte (hex b) = digit (b.extractLsb' 4 4) := by
  rw [highByte, hex, BitVec.extractLsb'_append_eq_of_le (by decide), BitVec.extractLsb'_eq_self]

@[simp] theorem lowByte_hex (b : Byte) : lowByte (hex b) = digit (b.extractLsb' 0 4) := by
  rw [lowByte, hex, BitVec.extractLsb'_append_eq_of_add_le (by decide), BitVec.extractLsb'_eq_self]

/-! ## The invariant's bounds as numbers (R35) -/

/-- ECODE is 0..4 (R202). -/
theorem State.Inv.ecode_le_four {s : State} (h : s.Inv) : s.ecode.toNat ≤ 4 := by
  obtain ⟨-, -, -, hclear, hset⟩ := h
  cases he : s.err with
  | false => simp [hclear he]
  | true => exact (hset he).2

/-- While PV = 1, PEND is a high surrogate (R24). -/
theorem State.Inv.pend_range {s : State} (h : s.Inv) (hp : s.pv = true) :
    0xD800 ≤ s.pend.toNat ∧ s.pend.toNat ≤ 0xDBFF := by
  obtain ⟨-, hrange, -⟩ := h
  exact hrange hp

/-! ## The statements -/

/-- Settles O17: the state checks reject by `exec_of_sequenceError`, and the other commands commute with writing DONE. -/
theorem sequencingRejections : Obligations.SequencingRejections := by
  refine ⟨rfl, rfl, ?_, ?_, State.applyReset_done, ?_, ?_, ?_, ?_⟩
  · intro s t h
    rw [exec_endInput, Host.Outcome.next.injEq] at h
    simp [← h]
  · intro s t h
    rw [exec_init, Host.Outcome.next.injEq] at h
    simp [← h]
  · exact fun s u hd => exec_of_sequenceError (by simp [State.sequenceError, hd])
  · exact fun s b hd => exec_of_sequenceError (by simp [State.sequenceError, hd])
  · exact fun s b hp hd => exec_of_sequenceError (by simp [State.sequenceError, hp, hd])
  · intro s d
    refine ⟨?_, ?_, exec_nop _, fun b => ?_⟩
    · simp [exec_init]
    · simp [exec_endInput]
    · simp [exec_hexb]

/-- Settles O45: the fields of STATUS bit by bit; a read leaves them, and ERR is sticky by `applyWord_keeps_err`. -/
theorem statusLayout : Obligations.StatusLayout := by
  refine ⟨fun s => ?_, by decide⟩
  obtain ⟨hpv, hdone, herr, hreserved⟩ := s.status_flag_bits
  refine ⟨hpv, hdone, herr, hreserved, s.status_ecode_field, s.status_high_byte, State.Inv.ecode_le_four, ?_, ?_⟩
  · intro a t h
    rw [applyRead_cases h, State.rd_logRead]
  · intro w t he hw h
    obtain ⟨-, -, herr', -⟩ := t.status_flag_bits
    exact herr'.trans (applyWord_keeps_err h hw he)

/-- Settles O46: DIGk reads byte `k` of V, and a limb's two bytes are bytes of V. -/
theorem digestWordsComeFromTheLimbs : Obligations.DigestWordsComeFromTheLimbs := by
  intro s
  obtain ⟨h3, l3⟩ := s.rd_digestWords_of_limb (k := 3) (by decide)
  obtain ⟨h2, l2⟩ := s.rd_digestWords_of_limb (k := 2) (by decide)
  obtain ⟨h1, l1⟩ := s.rd_digestWords_of_limb (k := 1) (by decide)
  obtain ⟨h0, l0⟩ := s.rd_digestWords_of_limb (k := 0) (by decide)
  rw [limbOf_three_V] at h3 l3
  rw [limbOf_two_V] at h2 l2
  rw [limbOf_one_V] at h1 l1
  rw [limbOf_zero_V] at h0 l0
  exact ⟨s.rd_dig, h3, l3, h2, l2, h1, l1, h0, l0⟩

/-- Settles O47: the read is PEND itself, whose range the invariant gives. -/
theorem pendReads : Obligations.PendReads := by
  refine ⟨fun s => ⟨s.rd_pend, State.Inv.pend_range, ?_, ?_⟩, rfl⟩
  · intro ⟨hclear, _⟩ hp
    exact hclear hp
  · intro a t h
    rw [applyRead_cases h, State.logRead_pend]

/-- Settles O48: HEXB writes HEX(b), and every word that is no HEXB's keeps HEXR by `applyWord_keeps_hexr`. -/
theorem hexrIsWrittenByHexbAndResetOnly : Obligations.HexrIsWrittenByHexbAndResetOnly := by
  refine ⟨fun s => ⟨s.rd_hexr, s.applyReset_hexr⟩, ?_, ?_, ?_⟩
  · exact fun s b => ⟨_, exec_hexb b s, s.setHexr_hexr _, highByte_hex b, lowByte_hex b⟩
  · exact fun w s t hw h => applyWord_keeps_hexr h hw
  · exact fun s t h => exec_keeps_hexr h (by simp)

end Sys2Proof.Machine

/-! # Proofs: the decoder by the numbers in the fields

`decodeFields` is R76's chain of cases over the three fields as numbers, and `decode_eq_decodeFields` ties the decoder to it. Which
fields each cause stands for is then a matter of that chain. -/

namespace Sys2Proof.Machine

/-! ## The decoder as a function of three numbers -/

/-- What R76 answers for the numbers in the fields OPC, RSV and IMM. -/
def decodeFields (o r i : Nat) : Decoded :=
  if 6 ≤ o then .reject .illegalOpcode
  else if r ≠ 0 then .reject .reservedField
  else if o = 0 then (if i ≠ 0 then .reject .reservedField else .cmd .nop)
  else if o = 1 then (if i ≠ 0 then .reject .reservedField else .cmd .init)
  else if o = 2 then .cmd (.unit (BitVec.ofNat 16 i))
  else if o = 3 then (if i ≠ 0 then .reject .reservedField else .cmd .endInput)
  else if o = 4 then (if i / 256 ≠ 0 then .reject .reservedField else .cmd (.fold (BitVec.ofNat 8 i)))
  else (if i / 256 ≠ 0 then .reject .reservedField else .cmd (.hexb (BitVec.ofNat 8 i)))

/-- The byte operand is the IMM field's number cut to eight bits (R72). -/
theorem operandByte_eq_ofNat (imm : BitVec 16) : operandByte imm = BitVec.ofNat 8 imm.toNat := by
  apply BitVec.eq_of_toNat_eq
  rw [operandByte_toNat, BitVec.toNat_ofNat]

/-- The code unit is the IMM field's number (R72). -/
theorem operandUnit_eq_ofNat (imm : BitVec 16) : operandUnit imm = BitVec.ofNat 16 imm.toNat := by
  rw [operandUnit, BitVec.ofNat_toNat, BitVec.setWidth_eq]

/-- The decoder reads the three fields as numbers and nothing else. -/
theorem decode_eq_decodeFields (w : Word) :
    decode w = decodeFields (opcField w).toNat (rsvField w).toNat (immField w).toNat := by
  simp only [decode, decodeFields, operandUnit_eq_ofNat, operandByte_eq_ofNat, BitVec.le_def, ne_eq,
    ← BitVec.toNat_inj, immHigh_toNat, BitVec.toNat_ofNat, Nat.reducePow, Nat.reduceMod]

/-! ## The words of each rejection -/

/-- Cause 1 is the answer for OPC 6 and up (R75). -/
theorem decodeFields_eq_illegalOpcode_iff (o r i : Nat) : decodeFields o r i = .reject .illegalOpcode ↔ 6 ≤ o := by
  by_cases ho : 6 ≤ o
  · simp [decodeFields, ho]
  · simp [decodeFields, ho, ite_eq_iff]

/-- Cause 2 is the answer for a legal OPC whose RSV or IMM breaks its constraint (R74). -/
theorem decodeFields_eq_reservedField_iff (o r i : Nat) :
    decodeFields o r i = .reject .reservedField ↔
      o ≤ 5 ∧ (r ≠ 0 ∨ ((o = 0 ∨ o = 1 ∨ o = 3) ∧ i ≠ 0) ∨ ((o = 4 ∨ o = 5) ∧ i / 256 ≠ 0)) := by
  by_cases ho : 6 ≤ o
  · have hgt : ¬ o ≤ 5 := by omega
    simp [decodeFields, ho, hgt]
  · have hle : o ≤ 5 := by omega
    by_cases hr : r = 0
    · interval_cases o <;> simp [decodeFields, hr]
    · simp [decodeFields, ho, hr, hle]

/-- The words with OPC 0x06..0xFF are the ones rejected with cause 1 (R75). -/
theorem decode_eq_illegalOpcode_iff (w : Word) : decode w = .reject .illegalOpcode ↔ 6 ≤ w.toNat / 2 ^ 24 := by
  rw [decode_eq_decodeFields, decodeFields_eq_illegalOpcode_iff, opcField_toNat]

/-- Among the numbers below `k + n`, those from `k` on are `n` in number. -/
theorem length_filter_le_range (k n : Nat) : ((List.range (k + n)).filter fun o => decide (k ≤ o)).length = n := by
  have below : (List.range k).filter (fun o => decide (k ≤ o)) = [] := by
    simp only [List.filter_eq_nil_iff, List.mem_range, decide_eq_true_eq]
    omega
  rw [List.range_add, List.filter_append, below, List.filter_eq_self.2 (by simp)]
  simp

/-! ## The statements -/

/-- Settles O11: the fields of the composed word are the three numbers, and the decoder is `decodeFields` of them. -/
theorem decoderFollowsTheFields : Obligations.DecoderFollowsTheFields := by
  intro o r i ho hr hi
  have hw : (BitVec.ofNat 32 (o * 2 ^ 24 + r * 2 ^ 16 + i)).toNat = o * 2 ^ 24 + r * 2 ^ 16 + i := by
    rw [BitVec.toNat_ofNat]
    omega
  have hopc : (o * 2 ^ 24 + r * 2 ^ 16 + i) / 2 ^ 24 = o := by omega
  have hrsv : (o * 2 ^ 24 + r * 2 ^ 16 + i) / 2 ^ 16 % 2 ^ 8 = r := by omega
  have himm : (o * 2 ^ 24 + r * 2 ^ 16 + i) % 2 ^ 16 = i := by omega
  rw [decode_eq_decodeFields, opcField_toNat, rsvField_toNat, immField_toNat, hw, hopc, hrsv, himm]
  rfl

/-- Settles O12: the 250 opcodes are counted, and `decode_eq_illegalOpcode_iff` says which words have one. -/
theorem illegalOpcodesAreRejected : Obligations.IllegalOpcodesAreRejected := by
  refine ⟨rfl, length_filter_le_range 6 250, decode_eq_illegalOpcode_iff, ?_⟩
  exact fun w s h => applyWord_of_reject ((decode_eq_illegalOpcode_iff w).2 h) s

/-- Settles O13: the numbers in the fields break a constraint exactly when R76's chain answers cause 2. -/
theorem reservedFieldWordsAreRejected : Obligations.ReservedFieldWordsAreRejected := by
  refine ⟨rfl, fun w => ⟨?_, fun s h => applyWord_of_reject h s⟩⟩
  have himm : w.toNat % 2 ^ 16 / 256 = w.toNat / 2 ^ 8 % 2 ^ 8 := by omega
  rw [decode_eq_decodeFields, decodeFields_eq_reservedField_iff, opcField_toNat, rsvField_toNat, immField_toNat, himm]

end Sys2Proof.Machine

/-! # Proofs: the hex table and HEXB

HEX(b) as a number, digit by digit (R100, R101), then the words of HEXB and what the command does to the read port (R103). -/

namespace Sys2Proof.Machine

/-! ## HEX(b) as a number (R100, R101) -/

/-- The code of a hex digit, from the digit's number. -/
theorem digit_toNat (n : BitVec 4) :
    (digit n).toNat = if n.toNat < 10 then 0x30 + n.toNat else 0x61 + (n.toNat - 10) := by
  have hn := n.isLt
  have hlt : n < 10#4 ↔ n.toNat < 10 := by simp [BitVec.lt_def]
  by_cases h : n.toNat < 10
  · rw [digit, if_pos (hlt.2 h), if_pos h, BitVec.toNat_add, BitVec.toNat_setWidth, BitVec.toNat_ofNat]
    omega
  · rw [digit, if_neg (mt hlt.1 h), if_neg h, BitVec.toNat_add, BitVec.toNat_sub, BitVec.toNat_setWidth,
      BitVec.toNat_ofNat, BitVec.toNat_ofNat]
    omega

theorem highNibble_eq_ofNat (b : Byte) : b.extractLsb' 4 4 = BitVec.ofNat 4 (b.toNat / 16) := by
  apply BitVec.eq_of_toNat_eq
  rw [BitVec.extractLsb'_toNat, BitVec.toNat_ofNat, Nat.shiftRight_eq_div_pow]

theorem lowNibble_eq_ofNat (b : Byte) : b.extractLsb' 0 4 = BitVec.ofNat 4 (b.toNat % 16) := by
  apply BitVec.eq_of_toNat_eq
  rw [BitVec.extractLsb'_toNat, BitVec.toNat_ofNat, Nat.shiftRight_zero, Nat.mod_mod]

/-- HEX(b) is the high digit's code above the low digit's. -/
theorem hex_toNat (b : Byte) :
    (hex b).toNat =
      (digit (BitVec.ofNat 4 (b.toNat / 16))).toNat * 256 + (digit (BitVec.ofNat 4 (b.toNat % 16))).toNat := by
  rw [hex, BitVec.toNat_append, ← Nat.shiftLeft_add_eq_or_of_lt (BitVec.isLt _), Nat.shiftLeft_eq,
    highNibble_eq_ofNat, lowNibble_eq_ofNat]

/-! ## The words of a byte command (R72, R74) -/

/-- A word with RSV = 0x00, composed from its opcode and operand, decodes by these two numbers. -/
theorem decode_ofNat_opc_imm {o i : Nat} (ho : o < 2 ^ 8) (hi : i < 2 ^ 16) :
    decode (BitVec.ofNat 32 (o * 2 ^ 24 + i)) = decodeFields o 0 i := by
  have h : decode (BitVec.ofNat 32 (o * 2 ^ 24 + 0 * 2 ^ 16 + i)) = decodeFields o 0 i :=
    decoderFollowsTheFields o 0 i ho (by decide) hi
  rwa [Nat.zero_mul, Nat.add_zero] at h

theorem decode_hexbWord (b : Byte) : decode (BitVec.ofNat 32 (0x05000000 + b.toNat)) = .cmd (.hexb b) := by
  have hb := b.isLt
  have himm : b.toNat / 256 = 0 := by omega
  rw [show 0x05000000 = 5 * 2 ^ 24 from rfl, decode_ofNat_opc_imm (by decide) (by omega)]
  simp [decodeFields, himm]

/-- A FOLD or HEXB word with a bit of 23:8 set is a reserved-field word. -/
theorem decode_eq_reservedField_of_byteOpcode {w : Word} (ho : w.toNat / 2 ^ 24 = 4 ∨ w.toNat / 2 ^ 24 = 5)
    (hspoiled : w.toNat / 2 ^ 8 % 2 ^ 16 ≠ 0) : decode w = .reject .reservedField := by
  rw [decode_eq_decodeFields, decodeFields_eq_reservedField_iff, opcField_toNat, rsvField_toNat, immField_toNat]
  omega

/-! ## HEXR on the read port (R29) -/

@[simp] theorem State.setHexr_status (s : State) (x : RdData) : (s.setHexr x).status = s.status := rfl

/-- Writing HEXR shows at address 0x6 only. -/
theorem State.rd_setHexr (s : State) (x : RdData) {a : RdAddr} (h : a ≠ 0x6#4) : (s.setHexr x).rd a = s.rd a := by
  simp [State.rd, h]

/-! ## The statements -/

/-- Settles O42: `digit_toNat` and `hex_toNat`, and the source's example. -/
theorem hexIsTwoLowercaseDigits : Obligations.HexIsTwoLowercaseDigits :=
  ⟨digit_toNat, hex_toNat, by decide⟩

/-- Settles O22: the HEXB word decodes to HEXB, which writes HEXR alone; a spoiled one is a reserved-field word. -/
theorem hexbWritesTheTwoCharacters : Obligations.HexbWritesTheTwoCharacters := by
  refine ⟨?_, ?_, rfl, ?_, by decide, by decide, by decide, by decide, by decide, ?_⟩
  · exact fun s b => ⟨exec_hexb b s, applyWord_of_cmd (decode_hexbWord b) s⟩
  · intro s t b a h ha
    rw [exec_hexb, Host.Outcome.next.injEq] at h
    rw [← h, s.rd_setHexr _ ha]
  · intro w s ho hspoiled
    have hw := decode_eq_reservedField_of_byteOpcode (.inr ho) hspoiled
    exact ⟨applyWord_of_reject hw s, s.cmdError_hexr .reservedField⟩
  · intro s t h
    have hw : decode 0x050000A5#32 = .cmd (.hexb 0xA5#8) := decode_hexbWord 0xA5#8
    rw [applyWord_of_cmd hw, exec_hexb, Host.Outcome.next.injEq] at h
    rw [← h, State.rd_hexr, State.setHexr_hexr]
    decide

end Sys2Proof.Machine

/-! # Proofs: the UTF-8 producer, UNIT and END

The classes of a code unit and the one-, two- and three-byte forms as numbers (R120 to R123), the bytes of a lone unit, then UNIT
and END as commands (R126, R127, R129, R130). -/

namespace Sys2Proof.Machine

/-! ## The classes of a code unit as ranges of its number (R120) -/

theorem isOne_iff (u : CodeUnit) : isOne u = true ↔ u.toNat < 0x80 := by
  simp [isOne, BitVec.lt_def]

theorem isTwo_iff (u : CodeUnit) : isTwo u = true ↔ 0x80 ≤ u.toNat ∧ u.toNat < 0x800 := by
  simp [isTwo, BitVec.lt_def, BitVec.le_def]

theorem isHigh_iff (u : CodeUnit) : isHigh u = true ↔ 0xD800 ≤ u.toNat ∧ u.toNat ≤ 0xDBFF := by
  simp [isHigh, BitVec.le_def]

theorem isLow_iff (u : CodeUnit) : isLow u = true ↔ 0xDC00 ≤ u.toNat ∧ u.toNat ≤ 0xDFFF := by
  simp [isLow, BitVec.le_def]

/-- The two surrogate classes together are the range 0xD800..0xDFFF. -/
theorem surrogate_range {u : CodeUnit} (h : isHigh u = true ∨ isLow u = true) :
    0xD800 ≤ u.toNat ∧ u.toNat ≤ 0xDFFF := by
  rw [isHigh_iff, isLow_iff] at h
  omega

/-! ## The bytes of each form as numbers (R121, R122, R123) -/

theorem lowByte_toNat (c : BitVec 16) : (lowByte c).toNat = c.toNat % 2 ^ 8 := by
  rw [lowByte, BitVec.extractLsb'_toNat, Nat.shiftRight_zero]

/-- A continuation byte carries six bits of the number, from bit `k` on. -/
theorem continuation_extractLsb'_toNat {w : Nat} (c : BitVec w) (k : Nat) :
    (continuation (c.extractLsb' k 6)).toNat = 0x80 ||| ((c.toNat >>> k) &&& 0x3F) := by
  have hfit : c.toNat >>> k % 2 ^ 6 % 2 ^ 8 = c.toNat >>> k % 2 ^ 6 := by omega
  rw [continuation, BitVec.toNat_or, BitVec.toNat_ofNat, BitVec.toNat_setWidth, BitVec.extractLsb'_toNat, hfit,
    ← Nat.and_two_pow_sub_one_eq_mod (c.toNat >>> k) 6]

theorem enc1_toNat {u : CodeUnit} (h : u.toNat < 0x80) : (enc1 u).map BitVec.toNat = [u.toNat] := by
  have hfit : u.toNat % 2 ^ 8 = u.toNat := by omega
  rw [enc1, List.map_singleton, lowByte_toNat, hfit]

/-- The lead byte of the two-byte form: five bits of payload hold `c >> 6` for every unit below 0x800. -/
theorem enc2_lead_toNat {u : CodeUnit} (h : u.toNat < 0x800) :
    (0xC0#8 ||| (u.extractLsb' 6 5).setWidth 8).toNat = 0xC0 ||| (u.toNat >>> 6) := by
  have hfit : u.toNat >>> 6 % 2 ^ 5 % 2 ^ 8 = u.toNat >>> 6 := by omega
  rw [BitVec.toNat_or, BitVec.toNat_setWidth, BitVec.extractLsb'_toNat, hfit]
  rfl

/-- The lead byte of the three-byte form: four bits of payload hold `c >> 12` for every unit. -/
theorem enc3_lead_toNat (u : CodeUnit) :
    (0xE0#8 ||| (u.extractLsb' 12 4).setWidth 8).toNat = 0xE0 ||| (u.toNat >>> 12) := by
  have hfit : u.toNat >>> 12 % 2 ^ 4 % 2 ^ 8 = u.toNat >>> 12 := by omega
  rw [BitVec.toNat_or, BitVec.toNat_setWidth, BitVec.extractLsb'_toNat, hfit]
  rfl

theorem enc2_toNat {u : CodeUnit} (h : u.toNat < 0x800) :
    (enc2 u).map BitVec.toNat = [0xC0 ||| (u.toNat >>> 6), 0x80 ||| (u.toNat &&& 0x3F)] := by
  simp only [enc2, List.map_cons, List.map_nil, enc2_lead_toNat h, continuation_extractLsb'_toNat, Nat.shiftRight_zero]

theorem enc3_toNat (u : CodeUnit) :
    (enc3 u).map BitVec.toNat =
      [0xE0 ||| (u.toNat >>> 12), 0x80 ||| ((u.toNat >>> 6) &&& 0x3F), 0x80 ||| (u.toNat &&& 0x3F)] := by
  simp only [enc3, List.map_cons, List.map_nil, enc3_lead_toNat, continuation_extractLsb'_toNat, Nat.shiftRight_zero]

/-- Five payload bits stand below the marker 0b110 of a lead byte, so that the OR is a sum. -/
theorem twoByteMarker_or {x : Nat} (h : x < 2 ^ 5) : 0xC0 ||| x = 0xC0 + x :=
  (Nat.shiftLeft_add_eq_or_of_lt h 0b110).symm

/-- Four payload bits stand below the marker 0b1110 of a lead byte. -/
theorem threeByteMarker_or {x : Nat} (h : x < 2 ^ 4) : 0xE0 ||| x = 0xE0 + x :=
  (Nat.shiftLeft_add_eq_or_of_lt h 0b1110).symm

theorem enc2_lead_range {u : CodeUnit} (hlo : 0x80 ≤ u.toNat) (hhi : u.toNat < 0x800) :
    ∀ lead ∈ (enc2 u).head?, 0xC2 ≤ lead.toNat ∧ lead.toNat ≤ 0xDF := by
  intro lead hlead
  obtain rfl : _ = lead := Option.some.inj hlead
  rw [enc2_lead_toNat hhi, twoByteMarker_or (by omega)]
  omega

theorem enc3_lead_range (u : CodeUnit) : ∀ lead ∈ (enc3 u).head?, 0xE0 ≤ lead.toNat ∧ lead.toNat ≤ 0xEF := by
  intro lead hlead
  obtain rfl : _ = lead := Option.some.inj hlead
  have hu := u.isLt
  rw [enc3_lead_toNat, threeByteMarker_or (by omega)]
  omega

/-! ## A unit encoded alone (R120, R130) -/

theorem encodeAlone_of_two {u : CodeUnit} (hlo : 0x80 ≤ u.toNat) (hhi : u.toNat < 0x800) : encodeAlone u = enc2 u := by
  have hone : ¬ isOne u = true := by rw [isOne_iff]; omega
  rw [encodeAlone, if_neg hone, if_pos ((isTwo_iff u).2 ⟨hlo, hhi⟩)]

theorem encodeAlone_of_three {u : CodeUnit} (h : 0x800 ≤ u.toNat) : encodeAlone u = enc3 u := by
  have hone : ¬ isOne u = true := by rw [isOne_iff]; omega
  have htwo : ¬ isTwo u = true := by rw [isTwo_iff]; omega
  rw [encodeAlone, if_neg hone, if_neg htwo]

theorem encodeAlone_of_surrogate {u : CodeUnit} (h : isHigh u = true ∨ isLow u = true) : encodeAlone u = enc3 u := by
  obtain ⟨hlo, -⟩ := surrogate_range h
  exact encodeAlone_of_three (by omega)

/-- Every form has a byte. -/
theorem encodeAlone_ne_nil (u : CodeUnit) : encodeAlone u ≠ [] := by
  unfold encodeAlone
  split
  · exact List.cons_ne_nil _ _
  · split <;> exact List.cons_ne_nil _ _

/-- The lead byte of a surrogate's raw value is 0xED (R130, R131). -/
theorem enc3_head?_of_surrogate {u : CodeUnit} (h : isHigh u = true ∨ isLow u = true) : (enc3 u).head? = some 0xED#8 := by
  obtain ⟨hlo, hhi⟩ := surrogate_range h
  have htop : u.toNat >>> 12 = 0xD := by omega
  have hlead : 0xE0#8 ||| (u.extractLsb' 12 4).setWidth 8 = 0xED#8 := by
    apply BitVec.eq_of_toNat_eq
    rw [enc3_lead_toNat, htop]
    rfl
  rw [enc3, hlead, List.head?_cons]

/-- No surrogate is encoded as the replacement character U+FFFD, whose lead byte is 0xEF. -/
theorem enc3_ne_replacement_of_surrogate {u : CodeUnit} (h : isHigh u = true ∨ isLow u = true) :
    enc3 u ≠ enc3 0xFFFD#16 := by
  intro heq
  have hlead := enc3_head?_of_surrogate h
  rw [heq] at hlead
  exact absurd hlead (by decide)

/-! ## The byte sequence of an input (R125) -/

@[simp] theorem encodeUnits_singleton (u : CodeUnit) : encodeUnits [u] = encodeAlone u := by
  rw [encodeUnits]

/-- A non-empty input has bytes: its first unit's, alone or as a pair. -/
theorem encodeUnits_ne_nil {us : List CodeUnit} (h : us ≠ []) : encodeUnits us ≠ [] := by
  match us with
  | [] => exact absurd rfl h
  | [u] =>
    rw [encodeUnits_singleton]
    exact encodeAlone_ne_nil u
  | u :: lo :: rest =>
    rw [encodeUnits]
    split
    · exact List.cons_ne_nil _ _
    · exact List.append_ne_nil_of_left_ne_nil (encodeAlone_ne_nil u) _

/-! ## UNIT and END as commands (R126, R127) -/

/-- While the input is open UNIT is accepted, whatever its value (R129). -/
theorem exec_unit_of_open {s : State} (h : s.done = false) (u : CodeUnit) :
    exec (.unit u) s = .next (s.acceptUnit u) := by
  simp [exec, execUnit, State.sequenceError, h]

@[simp] theorem State.acceptUnit_V (s : State) (u : CodeUnit) :
    (s.acceptUnit u).V = foldAll s.V (unitBytes s.pv s.pend u) := by
  simp [State.acceptUnit_eq, apply_ite State.V]

/-- A LOW with nothing pending is folded alone, as its raw value (R130). -/
theorem unitBytes_of_lone_low (pend : CodeUnit) {u : CodeUnit} (h : isLow u = true) :
    unitBytes false pend u = enc3 u := by
  simp [unitBytes, isHigh_of_isLow h, encodeAlone_of_surrogate (.inr h)]

/-- A pending HIGH that no LOW follows is folded alone, before the unit that comes (R126). -/
theorem unitBytes_of_lone_pending (pend : CodeUnit) {u : CodeUnit} (h : isLow u = false) :
    unitBytes true pend u = enc3 pend ++ (if isHigh u then [] else encodeUnits [u]) := by
  simp [unitBytes, h]

@[simp] theorem State.flushPending_V (s : State) : s.flushPending.V = foldAll s.V (endBytes s.pv s.pend) := by
  rw [State.flushPending_eq, State.clearPending_V, State.setV_V]

@[simp] theorem State.flushPending_err (s : State) : s.flushPending.err = s.err := by
  rw [State.flushPending_eq, State.clearPending_err, State.setV_err]

/-- END writes V, the pending surrogate and DONE, and nothing else (R127). -/
theorem State.flushPending_setDone_frame (s : State) :
    s.flushPending.setDone true =
      { s with v0 := s.flushPending.v0, v1 := s.flushPending.v1, v2 := s.flushPending.v2, v3 := s.flushPending.v3,
               pv := false, pend := 0x0000#16, done := true } := by
  rw [State.flushPending_eq]
  rfl

/-- Where the input is closed the invariant leaves END nothing to write (R35). -/
theorem State.Inv.flushPending_setDone_of_closed {s : State} (hinv : s.Inv) (hd : s.done = true) :
    s.flushPending.setDone true = s := by
  obtain ⟨hclear, -, hnot, -⟩ := hinv
  have hp : s.pv = false := Bool.eq_false_iff.2 fun hp => hnot ⟨hp, hd⟩
  have hflush : s.flushPending = s.clearPending := by
    rw [State.flushPending_eq, hp, endBytes, if_neg Bool.false_ne_true, foldAll_nil, State.setV_self]
  rw [hflush, State.clearPending, State.setDone, ← hp, ← hclear hp, ← hd]

theorem decode_endWord : decode 0x03000000#32 = .cmd .endInput := by decide

/-! ## The statements -/

/-- Settles O26: END is `flushPending` and DONE; its fold is `endBytes`, and under the invariant it has nothing left to write. -/
theorem endClosesTheInput : Obligations.EndClosesTheInput := by
  refine ⟨fun s => ?_, fun s hinv hd => ?_, fun s t h => ?_, by decide, ?_⟩
  · refine ⟨_, exec_endInput s, applyWord_of_cmd decode_endWord s, ?_, s.flushPending_setDone_frame⟩
    rw [State.setDone_V, State.flushPending_V, endBytes]
    exact apply_ite (foldAll s.V) _ _ _
  · rw [exec_endInput, hinv.flushPending_setDone_of_closed hd]
  · rw [exec_init, Host.Outcome.next.injEq] at h
    refine ⟨_, exec_endInput t, ?_⟩
    simp [← h, endBytes, Config.offsetBasis]
  · exact ⟨_, _, exec_unit_of_open rfl _, exec_endInput _, by decide, by decide⟩

/-- Settles O28: a lone surrogate's bytes are `enc3`'s, whose lead byte tells them from U+FFFD's, and UNIT and END fold them. -/
theorem loneSurrogatesKeepTheirValue : Obligations.LoneSurrogatesKeepTheirValue := by
  refine ⟨fun u hu => ?_, fun s u hd hp hl => ?_, fun s u hd hp hl => ?_, fun s hp => ?_⟩
  · rw [encodeUnits_singleton]
    exact ⟨encodeAlone_of_surrogate hu, enc3_ne_replacement_of_surrogate hu⟩
  · refine ⟨_, exec_unit_of_open hd u, ?_, s.acceptUnit_err u⟩
    rw [State.acceptUnit_V, hp, unitBytes_of_lone_low s.pend hl]
  · refine ⟨_, exec_unit_of_open hd u, s.acceptUnit_err u, ?_⟩
    rw [State.acceptUnit_V, hp, unitBytes_of_lone_pending s.pend hl, foldAll_append]
  · refine ⟨_, exec_endInput s, ?_, ?_⟩
    · rw [State.setDone_V, State.flushPending_V, hp, endBytes, if_pos rfl]
    · rw [State.setDone_err, State.flushPending_err]

/-- Settles O35: each form's bytes and lead as numbers, and the form of each range. -/
theorem oneTwoAndThreeByteForms : Obligations.OneTwoAndThreeByteForms := by
  rintro u c rfl
  exact ⟨enc1_toNat, fun _ hhi => enc2_toNat hhi, enc3_toNat u, fun h => encodeAlone_of_isOne ((isOne_iff u).2 h),
    encodeAlone_of_two, encodeAlone_of_three, by decide, enc2_lead_range, enc3_lead_range u⟩

/-- Settles O27: an open input accepts every unit, the state check does not read the unit, and every form has a byte. -/
theorem everyCodeUnitIsAccepted : Obligations.EveryCodeUnitIsAccepted :=
  ⟨fun s u hd => ⟨_, exec_unit_of_open hd u, s.acceptUnit_err u, s.acceptUnit_ecode u⟩, fun _ _ _ => rfl,
    fun _ => encodeUnits_ne_nil⟩

end Sys2Proof.Machine

/-! # Proofs: the accumulator

One fold as a number, and V as the only thing it writes (R150). -/

namespace Sys2Proof.Machine

/-! ## The fold (R150) -/

/-- One fold of a hash value as a number: the byte fits V's 64 bits, so that widening it keeps its value. -/
theorem foldHash_toNat (v : Hash) (b : Byte) :
    (foldHash v b).toNat = (v.toNat ^^^ b.toNat) * 0x100000001b3 % 2 ^ 64 := by
  have hfit : b.toNat % 2 ^ 64 = b.toNat := Nat.mod_eq_of_lt (by omega)
  have hprime : Config.fnvPrime.toNat = 0x100000001b3 := rfl
  rw [foldHash, BitVec.toNat_mul, BitVec.toNat_xor, BitVec.toNat_setWidth, hfit, hprime, Nat.mul_comm]

@[simp] theorem State.fold_V (s : State) (b : Byte) : (s.fold b).V = foldHash s.V b := by
  rw [State.fold_eq_setV, State.setV_V]

/-- The limbs are the four slices of V (R22). -/
theorem State.limbs_eq_slices_of_V (s : State) :
    s.v0 = s.V.extractLsb' 0 16 ∧ s.v1 = s.V.extractLsb' 16 16 ∧
    s.v2 = s.V.extractLsb' 32 16 ∧ s.v3 = s.V.extractLsb' 48 16 :=
  ⟨(limbOf_zero_V s).symm, (limbOf_one_V s).symm, (limbOf_two_V s).symm, (limbOf_three_V s).symm⟩

/-- A fold writes the four limbs and nothing else. -/
theorem State.fold_frame (s : State) (b : Byte) :
    s.fold b = { s with v0 := (s.fold b).v0, v1 := (s.fold b).v1, v2 := (s.fold b).v2, v3 := (s.fold b).v3 } := by
  rw [State.fold_eq_setV]
  rfl

/-! ## The statement -/

/-- Settles O31: V after a fold is `foldHash` of V, a function of V and the byte alone, and only the limbs are written. -/
theorem foldIsXorThenMultiply : Obligations.FoldIsXorThenMultiply := by
  intro s b
  obtain ⟨h0, h1, h2, h3⟩ := (s.fold b).limbs_eq_slices_of_V
  refine ⟨?_, h0, h1, h2, h3, fun t ht => ?_, s.fold_frame b⟩
  · rw [State.fold_V, foldHash_toNat]
  · rw [State.fold_V, State.fold_V, ht]

end Sys2Proof.Machine

/-! # Proofs: NOP, INIT and the empty input

The words whose format has no operand and their spoiled forms, the state INIT leaves, then the statements on NOP, INIT and the
digest of the empty input (R180, R181, R186). -/

namespace Sys2Proof.Machine

/-! ## The words of NOP and INIT (R73) -/

theorem decode_nopWord : decode 0x00000000#32 = .cmd .nop := by decide

theorem decode_initWord : decode 0x01000000#32 = .cmd .init := by decide

/-- The only legal word of NOP's, INIT's or END's OPC has nothing below it: another one has a non-zero RSV or IMM (R74). -/
theorem decode_eq_reservedField_of_bareOpcode {w : Word} {o : Nat} (ho : o = 0 ∨ o = 1 ∨ o = 3)
    (hw : w.toNat / 2 ^ 24 = o) (hspoiled : w ≠ BitVec.ofNat 32 (o * 2 ^ 24)) : decode w = .reject .reservedField := by
  rw [ne_eq, ← BitVec.toNat_inj, BitVec.toNat_ofNat] at hspoiled
  rw [decode_eq_decodeFields, decodeFields_eq_reservedField_iff, opcField_toNat, rsvField_toNat, immField_toNat]
  omega

/-! ## The state INIT leaves (R180) -/

/-- INIT writes the limbs, PV, PEND, DONE, ERR and ECODE, and nothing else. -/
theorem State.initialised_frame (s : State) :
    (s.setBasis.clearPending.setDone false).clearError =
      { s with v3 := 0xcbf2#16, v2 := 0x9ce4#16, v1 := 0x8422#16, v0 := 0x2325#16, pv := false, pend := 0x0000#16,
               done := false, err := false, ecode := 0#4 } := rfl

/-- INIT is idempotent: what it writes does not depend on the state. -/
theorem exec_init_idempotent {s t : State} (h : exec .init s = .next t) : exec .init t = .next t := by
  rw [exec_init, Host.Outcome.next.injEq] at h
  rw [← h]
  rfl

/-- STATUS reads 0x0000 where no flag is set and no cause is on record (R27). -/
theorem State.status_eq_zero {s : State} (hp : s.pv = false) (hd : s.done = false) (he : s.err = false)
    (hc : s.ecode = 0#4) : s.status = 0x0000#16 := by
  rw [State.status, hp, hd, he, hc]
  rfl

/-! ## The offset basis, rendered (R186) -/

theorem digestString_offsetBasis :
    digestString 0xcbf29ce484222325#64 =
      ['c', 'b', 'f', '2', '9', 'c', 'e', '4', '8', '4', '2', '2', '2', '3', '2', '5'] := by decide

/-- The empty input folds no byte, so its digest is the offset basis (R185). -/
theorem digest_nil : digest [] = digestString Config.offsetBasis := by
  rw [digest, encodeUnits, foldAll_nil]

/-! ## The statements -/

/-- Settles O20: NOP's word decodes to NOP, which answers its state; another word below 2^24 has OPC 0x00 and is spoiled. -/
theorem nopDoesNothing : Obligations.NopDoesNothing := by
  refine ⟨fun s => ⟨exec_nop s, applyWord_of_cmd decode_nopWord s⟩, rfl, fun w s hlt hne => ?_, ?_⟩
  · have hopc : w.toNat / 2 ^ 24 = 0 := Nat.div_eq_of_lt hlt
    exact applyWord_of_reject (decode_eq_reservedField_of_bareOpcode (.inl rfl) hopc hne) s
  · exact ⟨_, exec_unit_of_open rfl _, exec_nop _, by decide, by decide⟩

/-- Settles O21: the state INIT leaves is written out by `State.initialised_frame`, and the reads are its fields; a spoiled
INIT word is a reserved-field word. -/
theorem initStartsANewDigest : Obligations.InitStartsANewDigest := by
  refine ⟨fun s => ?_, rfl, rfl, fun w s ho hne => ?_⟩
  · refine ⟨_, exec_init s, applyWord_of_cmd decode_initWord s, exec_init_idempotent (exec_init s), s.initialised_frame,
      ?_, rfl, rfl, rfl, rfl, State.status_eq_zero rfl rfl rfl rfl⟩
    simp [Config.offsetBasis]
  · exact applyWord_of_reject (decode_eq_reservedField_of_bareOpcode (.inr (.inl rfl)) ho hne) s

/-- Settles O52: END after INIT keeps the basis (`endClosesTheInput`), and the empty input folds nothing onto it. -/
theorem emptyInputDigest : Obligations.EmptyInputDigest := by
  obtain ⟨-, -, endAfterInit, -⟩ := endClosesTheInput
  refine ⟨fun s => ?_, digest_nil.trans digestString_offsetBasis⟩
  obtain ⟨u, hu, hV⟩ := endAfterInit s _ (exec_init s)
  exact ⟨_, u, exec_init s, hu, hV, by rw [hV, digestString_offsetBasis]⟩

end Sys2Proof.Machine

/-! # Proofs: rejections, the order of the checks, and the record in ERR and ECODE

Clearing the record forgets exactly what a rejection writes: two states differ in ERR and ECODE alone where their cleared states
are equal; that every word keeps such an equality is R201's "does not change what later commands do". The order of the checks
(R205) is read from the opcode's number, and a clean run (R207) is followed back from its last word. -/

namespace Sys2Proof.Machine

/-! ## States that differ in ERR and ECODE only -/

@[simp] theorem State.clearError_cmdError (s : State) (c : Cause) : (s.cmdError c).clearError = s.clearError := rfl

@[simp] theorem State.clearError_clearError (s : State) : s.clearError.clearError = s.clearError := rfl

@[simp] theorem State.setV_clearError (s : State) (v : Hash) : s.clearError.setV v = (s.setV v).clearError := rfl

@[simp] theorem State.setBasis_clearError (s : State) : s.clearError.setBasis = s.setBasis.clearError := rfl

@[simp] theorem State.setPending_clearError (s : State) (u : CodeUnit) :
    s.clearError.setPending u = (s.setPending u).clearError := rfl

@[simp] theorem State.clearPending_clearError (s : State) : s.clearError.clearPending = s.clearPending.clearError := rfl

@[simp] theorem State.setDone_clearError (s : State) (d : Bool) : s.clearError.setDone d = (s.setDone d).clearError := rfl

@[simp] theorem State.setHexr_clearError (s : State) (x : RdData) : s.clearError.setHexr x = (s.setHexr x).clearError := rfl

@[simp] theorem State.fold_clearError (s : State) (b : Byte) : s.clearError.fold b = (s.fold b).clearError := by
  simp [State.fold_eq_setV]

@[simp] theorem State.acceptUnit_clearError (s : State) (u : CodeUnit) :
    s.clearError.acceptUnit u = (s.acceptUnit u).clearError := by
  rw [State.acceptUnit_eq, State.acceptUnit_eq, apply_ite State.clearError, apply_ite State.clearError]
  rfl

@[simp] theorem State.flushPending_clearError (s : State) : s.clearError.flushPending = s.flushPending.clearError := by
  simp [State.flushPending_eq]

@[simp] theorem State.sequenceError_clearError (s : State) (i : Instr) :
    s.clearError.sequenceError i = s.sequenceError i :=
  State.sequenceError_congr rfl rfl i

/-- What the clearing of the record leaves is the digest's state and HEXR. -/
theorem State.eq_beside_record_of_clearError_eq {s t : State} (h : s.clearError = t.clearError) :
    s.V = t.V ∧ s.pv = t.pv ∧ s.pend = t.pend ∧ s.done = t.done ∧ s.hexr = t.hexr :=
  ⟨by simpa using congrArg State.V h, by simpa using congrArg State.pv h, by simpa using congrArg State.pend h,
    by simpa using congrArg State.done h, by simpa using congrArg State.hexr h⟩

/-! ## A rejection and what follows it (R201, R208) -/

/-- While ERR = 1 a rejection changes nothing (R201). -/
theorem State.cmdError_of_err {s : State} (h : s.err = true) (c : Cause) : s.cmdError c = s := by
  rw [State.cmdError, State.firstCause_of_err h, ← h]

/-- A rejection is the same by the decoder and by a state check (R201). -/
theorem applyWord_of_rejection {w : Word} {c : Cause} {s : State}
    (h : decode w = .reject c ∨ ∃ i, decode w = .cmd i ∧ s.sequenceError i = some c) :
    applyWord w s = .next (s.cmdError c) := by
  obtain hw | ⟨i, hw, hc⟩ := h
  · exact applyWord_of_reject hw s
  · rw [applyWord_of_cmd hw, exec_of_sequenceError hc]

/-- A command completes, and the record before it makes no difference to the rest of the state after it. -/
theorem exec_from_clearError (i : Instr) (s : State) :
    ∃ t u, exec i s = .next t ∧ exec i s.clearError = .next u ∧ t.clearError = u.clearError := by
  cases hc : s.sequenceError i with
  | some c => exact ⟨_, _, exec_of_sequenceError hc, exec_of_sequenceError (by simpa using hc), by simp⟩
  | none =>
    cases i with
    | nop => exact ⟨_, _, exec_nop s, exec_nop _, by simp⟩
    | init => exact ⟨_, _, exec_init s, exec_init _, by simp⟩
    | unit u =>
      exact ⟨s.acceptUnit u, s.clearError.acceptUnit u, by simp [exec, execUnit, hc], by simp [exec, execUnit, hc],
        by simp⟩
    | endInput => exact ⟨_, _, exec_endInput s, exec_endInput _, by simp⟩
    | fold b =>
      exact ⟨s.fold b, s.clearError.fold b, by simp [exec, execFold, hc], by simp [exec, execFold, hc], by simp⟩
    | hexb b => exact ⟨_, _, exec_hexb b s, exec_hexb b _, by simp⟩

/-- The same for a word on the command port. -/
theorem applyWord_from_clearError (w : Word) (s : State) :
    ∃ t u, applyWord w s = .next t ∧ applyWord w s.clearError = .next u ∧ t.clearError = u.clearError := by
  cases hw : decode w with
  | reject c => exact ⟨_, _, applyWord_of_reject hw s, applyWord_of_reject hw _, by simp⟩
  | cmd i =>
    rw [applyWord_of_cmd hw, applyWord_of_cmd hw]
    exact exec_from_clearError i s

/-! ## The checks by the opcode (R205) -/

/-- Where the opcode is legal and no field breaks its constraint the decoder answers the command of that opcode (R76). -/
theorem decodeFields_of_legal {o r i : Nat} (ho : o < 6)
    (h : ¬ (r ≠ 0 ∨ ((o = 0 ∨ o = 1 ∨ o = 3) ∧ i ≠ 0) ∨ ((o = 4 ∨ o = 5) ∧ i / 256 ≠ 0))) :
    ∃ c : Instr, decodeFields o r i = .cmd c ∧ c.opc.toNat = o := by
  have hr : r = 0 := by omega
  interval_cases o <;> simp_all [decodeFields, Instr.opc]

/-- The word of a legal opcode whose fields break no constraint is a command of that opcode (R74, R76). -/
theorem decode_of_legal {w : Word} (ho : w.toNat / 2 ^ 24 < 6)
    (h : ¬ (w.toNat / 2 ^ 16 % 2 ^ 8 ≠ 0 ∨
      ((w.toNat / 2 ^ 24 = 0 ∨ w.toNat / 2 ^ 24 = 1 ∨ w.toNat / 2 ^ 24 = 3) ∧ w.toNat % 2 ^ 16 ≠ 0) ∨
      ((w.toNat / 2 ^ 24 = 4 ∨ w.toNat / 2 ^ 24 = 5) ∧ w.toNat / 2 ^ 8 % 2 ^ 8 ≠ 0))) :
    ∃ i, decode w = .cmd i ∧ i.opc.toNat = w.toNat / 2 ^ 24 := by
  have himm : w.toNat / 2 ^ 8 % 2 ^ 8 = w.toNat % 2 ^ 16 / 256 := by omega
  rw [himm] at h
  rw [decode_eq_decodeFields, opcField_toNat, rsvField_toNat, immField_toNat]
  exact decodeFields_of_legal ho h

/-- The state checks by the opcode: AFTER_END for UNIT and FOLD before FOLD_PENDING for FOLD (R203, R204, R205). -/
theorem State.sequenceError_by_opc (s : State) (i : Instr) :
    s.sequenceError i =
      if (i.opc.toNat = 2 ∨ i.opc.toNat = 4) ∧ s.done = true then some .afterEnd
      else if i.opc.toNat = 4 ∧ s.pv = true then some .foldPending
      else none := by
  cases i <;> simp [State.sequenceError, Instr.opc]

/-! ## The record (R207) -/

/-- While ERR = 1 a word that is not INIT's keeps ERR and ECODE: a rejection keeps the first cause, and an accepted command
writes neither. -/
theorem applyWord_keeps_record {w : Word} {s t : State} (h : applyWord w s = .next t) (hw : decode w ≠ .cmd .init)
    (he : s.err = true) : t.err = true ∧ t.ecode = s.ecode := by
  refine ⟨applyWord_keeps_err h hw he, ?_⟩
  obtain ⟨c, -, rfl⟩ | ⟨i, hi, ha, hx⟩ := applyWord_cases h
  · rw [State.cmdError_of_err he]
  · exact (exec_accepted_keeps_record hx (fun e => hw (e ▸ hi)) ha).2

/-- A word that is not INIT's and ends with ERR = 0 was accepted, and met ERR = 0. -/
theorem acceptsWord_of_applyWord_err_eq_false {w : Word} {s t : State} (h : applyWord w s = .next t)
    (hw : decode w ≠ .cmd .init) (he : t.err = false) : s.err = false ∧ s.acceptsWord w = true := by
  obtain ⟨c, -, rfl⟩ | ⟨i, hi, ha, hx⟩ := applyWord_cases h
  · simp at he
  · obtain ⟨herr, -⟩ := exec_accepted_keeps_record hx (fun e => hw (e ▸ hi)) ha
    exact ⟨herr ▸ he, by simp [State.acceptsWord, State.accepts, hi, ha]⟩

/-- A run over a word and more words passes through the state the word leaves. -/
theorem applyWords_cons_eq_next {w : Word} {ws : List Word} {s t : State} (h : applyWords (w :: ws) s = .next t) :
    ∃ r, applyWord w s = .next r ∧ applyWords ws r = .next t := by
  cases hw : applyWord w s with
  | next r => exact ⟨r, rfl, by simpa [applyWords, hw] using h⟩
  | fault f => simp [applyWords, hw] at h
  | refused f => simp [applyWords, hw] at h

theorem State.cleanRun_cons {w : Word} {s r : State} (h : applyWord w s = .next r) (ws : List Word) :
    s.cleanRun (w :: ws) = (s.acceptsWord w && r.cleanRun ws) := by
  simp [State.cleanRun, h]

/-- ERR = 0 after words without an INIT: by induction each of them was accepted, and ERR was 0 from the start (R207). -/
theorem cleanRun_of_applyWords_err_eq_false {ws : List Word} {s t : State} (hws : ∀ w ∈ ws, decode w ≠ .cmd .init)
    (h : applyWords ws s = .next t) (he : t.err = false) : s.err = false ∧ s.cleanRun ws = true := by
  induction ws generalizing s with
  | nil =>
    rw [applyWords, Host.Outcome.next.injEq] at h
    exact ⟨h ▸ he, rfl⟩
  | cons w ws ih =>
    obtain ⟨hw, hrest⟩ := List.forall_mem_cons.1 hws
    obtain ⟨r, hr, ht⟩ := applyWords_cons_eq_next h
    obtain ⟨herr, hclean⟩ := ih hrest ht
    obtain ⟨hs, hacc⟩ := acceptsWord_of_applyWord_err_eq_false hr hw herr
    exact ⟨hs, by rw [State.cleanRun_cons hr, hacc, hclean, Bool.and_self]⟩

/-! ## The statements -/

/-- Settles O16: a rejection is `State.cmdError`, which the cleared record forgets, so the word after it meets the same state
beside ERR and ECODE. -/
theorem rejectionLeavesNoOtherEffect : Obligations.RejectionLeavesNoOtherEffect := by
  refine ⟨fun w c s h => ⟨applyWord_of_rejection h, fun he => ?_⟩, fun v c s => ?_⟩
  · rw [applyWord_of_rejection h, State.cmdError_of_err he]
  · obtain ⟨t, r, ht, hr, htr⟩ := applyWord_from_clearError v s
    obtain ⟨u, r', hu, hr', hur⟩ := applyWord_from_clearError v (s.cmdError c)
    rw [State.clearError_cmdError, hr, Host.Outcome.next.injEq] at hr'
    subst hr'
    exact ⟨t, u, ht, hu, State.eq_beside_record_of_clearError_eq (hur.trans htr.symm)⟩

/-- Settles O18: the decoder's two rejections are the words' of O12 and O13; any other word is the command of its opcode, and
the state checks go by that opcode. -/
theorem checksAreMadeInOrder : Obligations.ChecksAreMadeInOrder := by
  intro w s o reserved rfl hres
  obtain ⟨-, hreserved⟩ := reservedFieldWordsAreRejected
  have hcmd : w.toNat / 2 ^ 24 < 6 → ¬ reserved → ∃ i, decode w = .cmd i ∧ i.opc.toNat = w.toNat / 2 ^ 24 :=
    fun ho hnot => decode_of_legal ho (hres.not.1 hnot)
  refine ⟨?_, ?_, ?_, ?_, ?_, ?_⟩
  · exact fun ho => applyWord_of_reject ((decode_eq_illegalOpcode_iff w).2 ho) s
  · intro ho hr
    exact applyWord_of_reject ((hreserved w).1.2 ⟨by omega, hres.1 hr⟩) s
  · intro ho hnot hd
    obtain ⟨i, hi, hopc⟩ := hcmd (by omega) hnot
    exact applyWord_of_rejection (.inr ⟨i, hi, by rw [State.sequenceError_by_opc, hopc, if_pos ⟨ho, hd⟩]⟩)
  · intro ho hnot hd hp
    obtain ⟨i, hi, hopc⟩ := hcmd (by omega) hnot
    exact applyWord_of_rejection (.inr ⟨i, hi, by simp [State.sequenceError_by_opc, hopc.trans ho, hd, hp]⟩)
  · intro ho hnot hafter hpending
    obtain ⟨i, hi, hopc⟩ := hcmd ho hnot
    exact ⟨i, hi, by rw [State.sequenceError_by_opc, hopc, if_neg hafter, if_neg hpending], applyWord_of_cmd hi s⟩
  · intro ⟨_, _, hnot, _⟩ ⟨hd, hp⟩
    exact hnot ⟨hp, hd⟩

/-- Settles O19: a word that is not INIT's keeps the record, INIT's effect and the reset's are read off, and a run is followed
by `cleanRun_of_applyWords_err_eq_false`. -/
theorem onlyInitAndResetClearTheRecord : Obligations.OnlyInitAndResetClearTheRecord := by
  refine ⟨fun w s t he hw h => applyWord_keeps_record h hw he, fun s t h => ?_,
    fun s => ⟨s.applyReset_err, s.applyReset_ecode⟩, fun ws s t hws h he => cleanRun_of_applyWords_err_eq_false hws h he⟩
  rw [exec_init, Host.Outcome.next.injEq] at h
  simp [← h, Config.offsetBasis]

end Sys2Proof.Machine

/-! # Proofs: reset and the hex ROM

HEXROM, as the grid of R102 lists it, is HEX at every byte, so HEXB reads it whatever a reset did; then what a reset leaves in
the core (R36, R230). -/

namespace Sys2Proof.Machine

/-! ## The grid of R102 -/

/-- The grid of R102 as a list of its rows. -/
def hexRows : List (List RdData) :=
  [hexRow0, hexRow1, hexRow2, hexRow3, hexRow4, hexRow5, hexRow6, hexRow7,
   hexRow8, hexRow9, hexRowA, hexRowB, hexRowC, hexRowD, hexRowE, hexRowF]

theorem hexRom_eq_flatten_hexRows : hexRom = hexRows.flatten := by
  simp only [hexRom, hexRows, List.flatten_cons, List.flatten_nil, List.append_nil, List.append_assoc]

/-- Row `h`, column `l` of the grid is HEX of the byte 16h + l (R102): its 256 entries, compared one by one. -/
theorem hexRows_eq_ofFn :
    hexRows = List.ofFn fun h : Fin 16 => List.ofFn fun l : Fin 16 => hex (BitVec.ofNat 8 (h.val * 16 + l.val)) := by
  rfl

theorem hexRom_eq_ofFn : hexRom = List.ofFn fun n : Fin (16 * 16) => hex (BitVec.ofNat 8 n.val) := by
  rw [hexRom_eq_flatten_hexRows, hexRows_eq_ofFn, List.ofFn_mul]

/-- Entry `b` of HEXROM is HEX(b) (R100, R102). -/
theorem hexRom_getElem? (b : Byte) : hexRom[b.toNat]? = some (hex b) := by
  have hb : b.toNat < 16 * 16 := b.isLt
  rw [hexRom_eq_ofFn, List.getElem?_ofFn, dif_pos hb, BitVec.ofNat_toNat, BitVec.setWidth_eq]

/-- HEXB reads its byte's entry of the ROM in every state (R103). -/
theorem exec_hexb_reads_hexRom (b : Byte) (s : State) :
    ∃ u, exec (.hexb b) s = .next u ∧ hexRom[b.toNat]? = some u.hexr :=
  ⟨_, exec_hexb b s, by rw [hexRom_getElem?, State.setHexr_hexr]⟩

/-! ## The state a reset leaves (R36, R230) -/

/-- Reset writes the limbs that INIT writes. -/
@[simp] theorem State.applyReset_V (s : State) : s.applyReset.V = Config.offsetBasis := s.setBasis_V

/-- The state the machine starts from is one a reset leaves. -/
@[simp] theorem State.applyReset_reset : State.reset.applyReset = State.reset := rfl

/-! ## The statement -/

/-- Settles O1: the state the machine starts from is a reset of itself, so both cases are a state after the reset event; its
fields are read off, and HEXB reads the ROM in every state. -/
theorem resetGivesEveryRegisterItsValue : Obligations.ResetGivesEveryRegisterItsValue := by
  intro s t ht
  obtain ⟨r, rfl⟩ : ∃ r : State, t = r.applyReset := by
    obtain rfl | rfl := ht
    · exact ⟨s, rfl⟩
    · exact ⟨State.reset, State.applyReset_reset.symm⟩
  exact ⟨r.applyReset_V, r.applyReset_v0, r.applyReset_v1, r.applyReset_v2, r.applyReset_v3, r.applyReset_pv,
    r.applyReset_pend, r.applyReset_done, r.applyReset_err, r.applyReset_ecode, r.applyReset_hexr,
    fun b => exec_hexb_reads_hexRom b _⟩

end Sys2Proof.Machine

/-! # Proofs: the encoding

A word decodes to a command exactly where it is that command's word (R70, R72, R73); the checks on raw words agree with the
decoder (R74, R75); then the words of each kind are counted (R77). -/

namespace Sys2Proof.Machine

/-! ## Decode and encode -/

/-- The decoder reads every command back from its word (R73, R76). -/
@[simp] theorem decode_encode (i : Instr) : decode (encode i) = .cmd i := by
  cases i <;> simp [decode, Instr.opc, Instr.imm, operandUnit]

/-- A word that decodes to a command has that command's fields, on each branch of R76 that answers one. -/
theorem fields_of_decode_eq_cmd {w : Word} {i : Instr} (h : decode w = .cmd i) :
    opcField w = i.opc ∧ rsvField w = 0x00#8 ∧ immField w = i.imm := by
  unfold decode at h
  split_ifs at h with hillegal hrsv hnop himm hinit himm hunit hend himm hfold himm himm <;> cases h <;>
    refine ⟨?_, not_not.1 hrsv, ?_⟩
  · exact hnop
  · exact not_not.1 himm
  · exact hinit
  · exact not_not.1 himm
  · exact hunit
  · rfl
  · exact hend
  · exact not_not.1 himm
  · exact hfold
  · exact (immOfByte_operandByte (not_not.1 himm)).symm
  · change opcField w = 0x05#8
    bv_omega
  · exact (immOfByte_operandByte (not_not.1 himm)).symm

/-- A word decodes to a command exactly where it is the command's word. -/
theorem decode_eq_cmd_iff (w : Word) (i : Instr) : decode w = .cmd i ↔ w = encode i := by
  refine ⟨fun h => ?_, fun h => h ▸ decode_encode i⟩
  obtain ⟨hopc, hrsv, himm⟩ := fields_of_decode_eq_cmd h
  rw [← formatC_fields w, hopc, hrsv, himm, encode]

theorem encode_injective : Function.Injective encode := by
  intro i j h
  have hdec := congrArg decode h
  rw [decode_encode, decode_encode] at hdec
  exact Decoded.cmd.inj hdec

/-- The decoder's rejections have two causes: the other two are the state checks' (R205). -/
theorem decode_reject_cause {w : Word} {c : Cause} (h : decode w = .reject c) :
    c = .illegalOpcode ∨ c = .reservedField := by
  unfold decode at h
  split_ifs at h <;> cases h <;> simp

/-! ## The checks on raw words (R74, R75) -/

theorem opcodeLegal_eq_true_iff (w : Word) : opcodeLegal w = true ↔ w.toNat / 2 ^ 24 < 6 := by
  rw [← opcField_toNat]
  simp [opcodeLegal, BitVec.lt_def]

theorem opcodeLegal_eq_false_iff (w : Word) : opcodeLegal w = false ↔ decode w = .reject .illegalOpcode := by
  rw [decode_eq_illegalOpcode_iff, ← Bool.not_eq_true, opcodeLegal_eq_true_iff, Nat.not_lt]

/-- The operand form of each opcode, by number (R72). -/
theorem immLegal_eq_true_iff (w : Word) :
    immLegal w = true ↔
      (((opcField w).toNat = 4 ∨ (opcField w).toNat = 5) → (immField w).toNat / 256 = 0) ∧
      ((opcField w).toNat ≠ 2 → (opcField w).toNat ≠ 4 → (opcField w).toNat ≠ 5 → (immField w).toNat = 0) := by
  simp only [immLegal, ← BitVec.toNat_inj, immHigh_toNat, BitVec.toNat_ofNat, Nat.reducePow, Nat.reduceMod]
  split_ifs <;> simp <;> omega

theorem reservedFieldWord_iff (w : Word) : reservedFieldWord w = true ↔ decode w = .reject .reservedField := by
  have himm := immLegal_eq_true_iff w
  have hopc := opcodeLegal_eq_true_iff w
  rw [← opcField_toNat] at hopc
  rw [decode_eq_decodeFields, decodeFields_eq_reservedField_iff, reservedFieldWord, Bool.and_eq_true, hopc,
    Bool.not_eq_true', ← Bool.not_eq_true, Bool.and_eq_true, himm, rsvClear, decide_eq_true_iff, ← BitVec.toNat_inj,
    BitVec.toNat_ofNat, Nat.zero_mod]
  omega

/-- A word passes the checks where it is neither kind of bad word. -/
theorem wordWf_eq (w : Word) : wordWf w = (opcodeLegal w && !reservedFieldWord w) := by
  rw [wordWf, reservedFieldWord]
  cases opcodeLegal w <;> simp

/-- The words that pass the checks are the ones that decode to a command: R76's other answers are the two bad words. -/
theorem wordWf_iff (w : Word) : wordWf w = true ↔ ∃ i, decode w = .cmd i := by
  rw [wordWf_eq, Bool.and_eq_true, Bool.not_eq_true', ← Bool.not_eq_false, opcodeLegal_eq_false_iff, ← Bool.not_eq_true,
    reservedFieldWord_iff]
  cases hw : decode w with
  | cmd i => simp
  | reject c =>
    obtain rfl | rfl := decode_reject_cause hw <;> simp

/-! ## The statements on the decoder -/

/-- Settles O9: the decoder reads a command back from its word, and a word that decodes has the command's three fields. -/
theorem decodeAndEncodeAgree : Obligations.DecodeAndEncodeAgree := decode_eq_cmd_iff

/-- Settles O14: the checks, by the numbers in the fields, are the decoder's. -/
theorem wellFormedWordsAreTheCommands : Obligations.WellFormedWordsAreTheCommands := by
  refine fun w => ⟨?_, reservedFieldWord_iff w, opcodeLegal_eq_false_iff w, fun i => (wordWf_iff _).2 ⟨i, decode_encode i⟩⟩
  have hwf : ∀ i : Instr, i.wf = true := by rintro ⟨⟩ <;> rfl
  simp only [hwf, true_and, wordWf_iff]

/-- Settles O10: each word, written out bit by bit, runs through R76's chain. -/
theorem tableWordsDecode : Obligations.TableWordsDecode :=
  ⟨by decide, by decide, by decide, by decide, by decide, by decide⟩

/-! ## How many words there are of each kind (R77) -/

theorem card_bitVec (n : Nat) : Nat.card (BitVec n) = 2 ^ n := by
  rw [Nat.card_congr BitVec.equivFin.toEquiv, Nat.card_fin]

/-- A family of commands has as many words as it has operands. -/
theorem ncard_words_of_family {α : Type} {f : α → Instr} (hf : Function.Injective f) :
    {w : Word | ∃ a, decode w = .cmd (f a)}.ncard = Nat.card α := by
  have hrange : {w : Word | ∃ a, decode w = .cmd (f a)} = (encode ∘ f) '' Set.univ := by
    ext w
    simp [decode_eq_cmd_iff, eq_comm]
  rw [hrange, Set.ncard_image_of_injective _ (encode_injective.comp hf), Set.ncard_univ]

/-- A command without an operand has one word. -/
theorem ncard_words_of_command (i : Instr) : {w : Word | decode w = .cmd i}.ncard = 1 := by
  simp only [decode_eq_cmd_iff, Set.ofPred_eq_eq_singleton, Set.ncard_singleton]

/-- The commands are the three without an operand, the code units of UNIT, and the bytes of FOLD and HEXB. -/
def instrEquiv : Instr ≃ Fin 3 ⊕ CodeUnit ⊕ Byte ⊕ Byte where
  toFun
    | .nop => .inl 0
    | .init => .inl 1
    | .endInput => .inl 2
    | .unit u => .inr (.inl u)
    | .fold b => .inr (.inr (.inl b))
    | .hexb b => .inr (.inr (.inr b))
  invFun
    | .inl 0 => .nop
    | .inl 1 => .init
    | .inl 2 => .endInput
    | .inr (.inl u) => .unit u
    | .inr (.inr (.inl b)) => .fold b
    | .inr (.inr (.inr b)) => .hexb b
  left_inv i := by cases i <;> rfl
  right_inv x := by
    match x with
    | .inl 0 | .inl 1 | .inl 2 | .inr (.inl _) | .inr (.inr (.inl _)) | .inr (.inr (.inr _)) => rfl

theorem card_instr : Nat.card Instr = 2 ^ 16 + 2 ^ 9 + 3 := by
  rw [Nat.card_congr instrEquiv, Nat.card_sum, Nat.card_sum, Nat.card_sum, Nat.card_fin, card_bitVec, card_bitVec]
  rfl

/-- The rejected words are the ones that no command has. -/
theorem ncard_rejected_words :
    {w : Word | ∃ c, decode w = .reject c}.ncard = 2 ^ 32 - (2 ^ 16 + 2 ^ 9 + 3) := by
  have hcompl : {w : Word | ∃ c, decode w = .reject c} = {w : Word | ∃ i, decode w = .cmd i}ᶜ := by
    ext w
    cases hw : decode w <;> simp [hw]
  have hcmd : {w : Word | ∃ i, decode w = .cmd i}.ncard = Nat.card Instr := ncard_words_of_family Function.injective_id
  rw [hcompl, Set.ncard_compl, hcmd, card_instr, card_bitVec]

/-- The numbers from `k` on are the `2 ^ n - k` largest of the words. -/
theorem ncard_le_toNat {n k : Nat} : {w : BitVec n | k ≤ w.toNat}.ncard = 2 ^ n - k := by
  have hpre : {w : BitVec n | k ≤ w.toNat} = BitVec.toNat ⁻¹' Set.Ico k (2 ^ n) := by
    ext w
    simp [w.isLt]
  rw [hpre, Set.ncard_preimage_of_injective_subset_range (fun _ _ => BitVec.eq_of_toNat_eq),
    ← Finset.coe_Ico, Set.ncard_coe_finset, Nat.card_Ico]
  exact fun m hm => ⟨BitVec.ofNat n m, Nat.mod_eq_of_lt hm.2⟩

theorem ncard_illegalOpcode_words : {w : Word | decode w = .reject .illegalOpcode}.ncard = 250 * 2 ^ 24 := by
  have hset : {w : Word | decode w = .reject .illegalOpcode} = {w : Word | 6 * 2 ^ 24 ≤ w.toNat} := by
    ext w
    rw [Set.mem_ofPred_eq, Set.mem_ofPred_eq, decode_eq_illegalOpcode_iff]
    omega
  rw [hset, ncard_le_toNat]
  rfl

/-- A rejected word has one cause of two. -/
theorem ncard_rejected_words_by_cause :
    {w : Word | ∃ c, decode w = .reject c}.ncard =
      {w : Word | decode w = .reject .illegalOpcode}.ncard + {w : Word | decode w = .reject .reservedField}.ncard := by
  rw [← Set.ncard_union_eq]
  · congr 1
    ext w
    refine ⟨fun ⟨c, hc⟩ => ?_, ?_⟩
    · obtain rfl | rfl := decode_reject_cause hc
      · exact .inl hc
      · exact .inr hc
    · rintro (h | h) <;> exact ⟨_, h⟩
  · exact Set.disjoint_left.2 fun w h h' => by cases h.symm.trans h'

/-- Settles O15: the words of a family are counted by its operands, and the rejected ones are the rest. -/
theorem wordCounts : Obligations.WordCounts := by
  have hrej := ncard_rejected_words_by_cause
  rw [ncard_rejected_words, ncard_illegalOpcode_words] at hrej
  refine ⟨?_, ?_, ?_, ncard_words_of_command _, ncard_words_of_command _, ncard_words_of_command _, ncard_rejected_words,
    ncard_illegalOpcode_words, ?_⟩
  · rw [ncard_words_of_family fun _ _ => Instr.unit.inj, card_bitVec]
  · rw [ncard_words_of_family fun _ _ => Instr.fold.inj, card_bitVec]
  · rw [ncard_words_of_family fun _ _ => Instr.hexb.inj, card_bitVec]
  · omega

end Sys2Proof.Machine

/-! # Proofs: the step, the invariant and several cores

One equation per kind of step, that every step completes, what a command and a reset keep of the five invariants (R35), and the
interleaving of several cores (R66, R213). -/

namespace Sys2Proof.Machine

/-! ## Commands and words complete (R200, R201) -/

theorem exec_completes (i : Instr) (s : State) : ∃ t, exec i s = .next t := by
  obtain ⟨t, -, ht, -⟩ := exec_from_clearError i s
  exact ⟨t, ht⟩

theorem applyWord_completes (w : Word) (s : State) : ∃ t, applyWord w s = .next t := by
  obtain ⟨t, -, ht, -⟩ := applyWord_from_clearError w s
  exact ⟨t, ht⟩

theorem applyEvent_completes (e : HostEvent) (s : State) : ∃ t, applyEvent e s = .next t := by
  cases e with
  | command w => exact applyWord_completes w s
  | read a => exact ⟨_, rfl⟩
  | reset => exact ⟨_, rfl⟩

/-! ## The step by the head of the host's stream (log entry 1) -/

theorem step_of_idle {s : State} (h : s.hostIn = []) : step s = .next s := by
  rw [step, serveHost, State.takeEvent_nil h]

theorem step_of_event {s : State} {e : HostEvent} {rest : List HostEvent} (h : s.hostIn = e :: rest) :
    step s = applyEvent e (s.setHostIn rest) := by
  rw [step, serveHost, State.takeEvent_cons h]

theorem step_of_command {s : State} {w : Word} {rest : List HostEvent} (h : s.hostIn = .command w :: rest) :
    step s = applyWord w (s.setHostIn rest) := step_of_event h

/-- A word's number gives the word back. -/
theorem wordOfBits_toNat (w : Word) : wordOfBits 32 w.toNat = w := by
  rw [wordOfBits, Nat.mod_eq_of_lt w.isLt, BitVec.ofNat_toNat, BitVec.setWidth_eq]

/-- Every step completes. -/
theorem step_completes (s : State) : ∃ t, step s = .next t := by
  cases h : s.hostIn with
  | nil => exact ⟨s, step_of_idle h⟩
  | cons e rest =>
    rw [step_of_event h]
    exact applyEvent_completes e _

/-- The inversion of `step`: the host is idle, or its next event has taken effect. -/
theorem step_cases {s t : State} (h : step s = .next t) :
    (s.hostIn = [] ∧ t = s) ∨
    ∃ e rest, s.hostIn = e :: rest ∧ applyEvent e (s.setHostIn rest) = .next t := by
  cases hin : s.hostIn with
  | nil =>
    rw [step_of_idle hin, Host.Outcome.next.injEq] at h
    exact .inl ⟨rfl, h.symm⟩
  | cons e rest => exact .inr ⟨e, rest, rfl, step_of_event hin ▸ h⟩

/-! ## What keeps the invariant (R35) -/

/-- The five items speak of PV, PEND, DONE, ERR and ECODE only. -/
theorem State.Inv.congr {s t : State} (h : s.Inv) (hpv : t.pv = s.pv) (hpend : t.pend = s.pend) (hdone : t.done = s.done)
    (herr : t.err = s.err) (hecode : t.ecode = s.ecode) : t.Inv := by
  rwa [State.Inv, hpv, hpend, hdone, herr, hecode]

/-- Where nothing is pending and no rejection is recorded all five hold. -/
theorem State.inv_of_clear {t : State} (hpv : t.pv = false) (hpend : t.pend = 0x0000#16) (herr : t.err = false)
    (hecode : t.ecode = 0#4) : t.Inv := by
  simp [State.Inv, hpv, hpend, herr, hecode]

theorem State.Inv.cmdError {s : State} (h : s.Inv) (c : Cause) : (s.cmdError c).Inv := by
  cases he : s.err with
  | true => rwa [State.cmdError_of_err he]
  | false =>
    obtain ⟨hclear, hrange, hnot, -, -⟩ := h
    refine ⟨hclear, hrange, hnot, by simp, fun _ => ?_⟩
    rw [State.cmdError_ecode, State.firstCause_of_not_err he]
    exact causeCode_range c

theorem State.Inv.setV {s : State} (h : s.Inv) (v : Hash) : (s.setV v).Inv := h.congr rfl rfl rfl rfl rfl

theorem State.Inv.clearPending {s : State} (h : s.Inv) : s.clearPending.Inv := by
  obtain ⟨-, -, -, hnone, hsome⟩ := h
  exact ⟨by simp, by simp, by simp, hnone, hsome⟩

/-- A HIGH may become pending while the input is open. -/
theorem State.Inv.setPending {s : State} (h : s.Inv) (hd : s.done = false) {u : CodeUnit} (hu : isHigh u = true) :
    (s.setPending u).Inv := by
  obtain ⟨-, -, -, hnone, hsome⟩ := h
  have hrange : 0xD800#16 ≤ u ∧ u ≤ 0xDBFF#16 := by simpa [isHigh] using hu
  exact ⟨by simp, fun _ => hrange, by simp [hd], hnone, hsome⟩

/-- The input may be closed where nothing is pending. -/
theorem State.Inv.setDone {s : State} (h : s.Inv) {d : Bool} (hp : s.pv = false) : (s.setDone d).Inv := by
  obtain ⟨hclear, hrange, -, hnone, hsome⟩ := h
  exact ⟨hclear, hrange, by simp [hp], hnone, hsome⟩

theorem State.Inv.acceptUnit {s : State} (h : s.Inv) (hd : s.done = false) (u : CodeUnit) : (s.acceptUnit u).Inv := by
  rw [State.acceptUnit_eq]
  split
  next hu => exact (h.setV _).setPending hd hu
  next =>
    split
    · exact (h.setV _).clearPending
    · exact h.setV _

theorem State.Inv.flushPending {s : State} (h : s.Inv) : s.flushPending.Inv := by
  rw [State.flushPending_eq]
  exact (h.setV _).clearPending

@[simp] theorem State.flushPending_pv (s : State) : s.flushPending.pv = false := by
  rw [State.flushPending_eq, State.clearPending_pv]

/-- UNIT is accepted only while the input is open. -/
theorem State.done_of_unit_accepted {s : State} {u : CodeUnit} (h : s.sequenceError (.unit u) = none) :
    s.done = false := by
  simpa [State.sequenceError] using h

theorem exec_keeps_inv {i : Instr} {s t : State} (hs : s.Inv) (h : exec i s = .next t) : t.Inv := by
  obtain ⟨c, -, rfl⟩ | ⟨ha, ⟨-, rfl⟩ | ⟨-, rfl⟩ | ⟨u, rfl, rfl⟩ | ⟨-, rfl⟩ | ⟨b, -, rfl⟩ | ⟨b, -, rfl⟩⟩ := exec_cases h
  · exact hs.cmdError c
  · exact hs
  · exact State.inv_of_clear rfl rfl rfl rfl
  · exact hs.acceptUnit (State.done_of_unit_accepted ha) u
  · exact hs.flushPending.setDone s.flushPending_pv
  · exact hs.setV _
  · exact hs.congr rfl rfl rfl rfl rfl

theorem applyWord_keeps_inv {w : Word} {s t : State} (hs : s.Inv) (h : applyWord w s = .next t) : t.Inv := by
  obtain ⟨c, -, rfl⟩ | ⟨i, -, -, hx⟩ := applyWord_cases h
  · exact hs.cmdError c
  · exact exec_keeps_inv hs hx

theorem applyEvent_keeps_inv {e : HostEvent} {s t : State} (hs : s.Inv) (h : applyEvent e s = .next t) : t.Inv := by
  cases e with
  | command w => exact applyWord_keeps_inv hs h
  | read a =>
    rw [applyRead_cases h]
    exact hs.congr rfl rfl rfl rfl rfl
  | reset =>
    rw [applyEvent, Host.Outcome.next.injEq] at h
    exact h ▸ State.inv_of_clear rfl rfl rfl rfl

/-! ## Several cores (R66, R213) -/

theorem runSteps_succ {s t : State} (h : step s = .next t) (k : Nat) : runSteps (k + 1) s = runSteps k t := by
  rw [runSteps, h]

theorem platformRun_cons {n : Nat} {k : Fin n} {p : Platform n} {t : State} (h : step p[k] = .next t)
    (ks : List (Fin n)) : platformRun (k :: ks) p = platformRun ks (p.set k t) := by
  rw [platformRun, platformStep, h]

/-- By induction on the schedule: the first step is its core's own, and no other core's state is touched by it. -/
theorem platformRun_completes {n : Nat} (ks : List (Fin n)) (p : Platform n) :
    ∃ q, platformRun ks p = .next q ∧ ∀ k : Fin n, runSteps (ks.count k) p[k] = .next q[k] := by
  induction ks generalizing p with
  | nil => exact ⟨p, rfl, fun k => rfl⟩
  | cons j ks ih =>
    obtain ⟨t, ht⟩ := step_completes p[j]
    obtain ⟨q, hq, hcores⟩ := ih (p.set j t)
    refine ⟨q, (platformRun_cons ht ks).trans hq, fun k => ?_⟩
    have hk := hcores k
    by_cases hjk : j = k
    · subst hjk
      rw [Fin.getElem_fin, Vector.getElem_set_self] at hk
      rw [List.count_cons_self, runSteps_succ ht, hk]
    · rw [Fin.getElem_fin, Vector.getElem_set_ne _ _ (Fin.val_ne_of_ne hjk)] at hk
      rw [List.count_cons_of_ne hjk]
      exact hk

/-! ## The statements -/

/-- Settles O4: a step is idle or one event, and each event keeps the invariant. -/
theorem everyStepKeepsTheInvariant : Obligations.EveryStepKeepsTheInvariant := by
  intro s t hs h
  obtain ⟨-, rfl⟩ | ⟨e, rest, -, he⟩ := step_cases h
  · exact hs
  · have hrest : (s.setHostIn rest).Inv := hs.congr rfl rfl rfl rfl rfl
    exact applyEvent_keeps_inv hrest he

/-- Settles O56, by induction on the schedule. -/
theorem coresDoNotInteract : Obligations.CoresDoNotInteract := fun _ => platformRun_completes

/-- Settles O5: an idle core holds its state, and every event completes. -/
theorem everyStepAnswersANextState : Obligations.EveryStepAnswersANextState := step_completes

/-- Settles O3: at reset nothing is pending and no rejection is recorded. -/
theorem resetMeetsTheInvariant : Obligations.ResetMeetsTheInvariant := State.inv_of_clear rfl rfl rfl rfl

/-- Settles O6: the step applies the word, which is the command it decodes to. -/
theorem stepRunsTheDecodedCommand : Obligations.StepRunsTheDecodedCommand :=
  fun _ _ _ _ hin hw => (step_of_command hin).trans (applyWord_of_cmd hw _)

/-- Settles O7: the step applies the event at the head of the stream, if there is one. -/
theorem stepTakesTheOtherHostEvents : Obligations.StepTakesTheOtherHostEvents :=
  fun _ _ => ⟨fun _ _ hin hw => (step_of_command hin).trans (applyWord_of_reject hw _), fun _ hin => step_of_event hin,
    fun hin => step_of_event hin, step_of_idle⟩

/-- Settles O8: the number of a word gives the word back, and the command's word decodes to it. -/
theorem fetchWordIsTheNextCommand : Obligations.FetchWordIsTheNextCommand := by
  intro s i
  refine ⟨by rw [decodeTableWord, wordOfBits_toNat, decode_encode, Decoded.toInstr], ?_⟩
  rw [State.withFetchWord, step_of_command (State.setHostIn_hostIn s _), State.setHostIn_setHostIn, State.setHostIn_self,
    wordOfBits_toNat, applyWord_of_cmd (decode_encode i)]

end Sys2Proof.Machine

/-! # Proofs: the limb datapath and FOLD

The 16-bit multiply-with-carry datapath against the 64-bit product (R151 to R153), the fold as a bijection (R157), and FOLD as a
command (R155). -/

namespace Sys2Proof.Machine

/-! ## The XOR with the byte (R151) -/

/-- The byte meets the low limb of V only. -/
theorem State.V_xor_byte (s : State) (b : Byte) :
    s.V ^^^ b.setWidth 64 = s.v3 ++ s.v2 ++ s.v1 ++ limbXor s.v0 b := by
  apply BitVec.eq_of_getLsbD_eq
  intro i hi
  rw [BitVec.getLsbD_xor, State.V, BitVec.getLsbD_append, BitVec.getLsbD_append (y := limbXor _ _), limbXor,
    BitVec.getLsbD_setWidth]
  by_cases h : i < 16
  · simp [h, hi]
  · simp [h, BitVec.getLsbD_of_ge b i (by omega)]

/-- The byte meets the low byte of v0 only. -/
theorem highByte_limbXor (v0 : Limb) (b : Byte) : highByte (limbXor v0 b) = highByte v0 := by
  apply BitVec.eq_of_getLsbD_eq
  intro i hi
  simp [highByte, limbXor, BitVec.getLsbD_extractLsb']

/-! ## The datapath (R152, R153) -/

/-- The product modulo 2^64, limb by limb, is what the carry chain leaves: 2^40 times the limbs is the low two of them, eight
bits up. -/
theorem carryChain_eq_product {w0 v1 v2 v3 t0 t1 t2 t3 : Nat} (h0 : t0 = 435 * w0) (h1 : t1 = 435 * v1 + t0 / 2 ^ 16)
    (h2 : t2 = 435 * v2 + w0 * 2 ^ 8 + t1 / 2 ^ 16) (h3 : t3 = 435 * v3 + v1 * 2 ^ 8 + t2 / 2 ^ 16) :
    0x100000001b3 * (v3 * 2 ^ 48 + v2 * 2 ^ 32 + v1 * 2 ^ 16 + w0) % 2 ^ 64 =
      t3 % 2 ^ 16 * 2 ^ 48 + t2 % 2 ^ 16 * 2 ^ 32 + t1 % 2 ^ 16 * 2 ^ 16 + t0 % 2 ^ 16 := by
  omega

/-- The temporaries stay within R153's bounds. -/
theorem limbTemps_bounds (v0 v1 v2 v3 : Limb) (b : Byte) :
    (limbTemps v0 v1 v2 v3 b).t0 ≤ 28507725 ∧ (limbTemps v0 v1 v2 v3 b).t1 ≤ 28508159 ∧
    (limbTemps v0 v1 v2 v3 b).t2 ≤ 45285119 ∧ (limbTemps v0 v1 v2 v3 b).t3 ≤ 45285375 := by
  have h0 := (limbXor v0 b).isLt
  have h1 := v1.isLt
  have h2 := v2.isLt
  have h3 := v3.isLt
  simp only [limbTemps, Config.primeLow, Nat.shiftRight_eq_div_pow, Nat.shiftLeft_eq]
  omega

/-- With every limb at 0xFFFF the bounds are reached. -/
theorem limbTemps_allOnes :
    limbTemps 0xFFFF#16 0xFFFF#16 0xFFFF#16 0xFFFF#16 0x00#8 = ⟨28507725, 28508159, 45285119, 45285375⟩ := by decide

/-- The datapath's limbs, read as one number, are the product. -/
theorem State.limbFold_V (s : State) (b : Byte) : (s.limbFold b).V = foldHash s.V b := by
  have hxor : (s.V ^^^ b.setWidth 64).toNat =
      s.v3.toNat * 2 ^ 48 + s.v2.toNat * 2 ^ 32 + s.v1.toNat * 2 ^ 16 + (limbXor s.v0 b).toNat := by
    rw [s.V_xor_byte b]
    exact State.V_toNat { s with v0 := limbXor s.v0 b }
  have hprime : Config.fnvPrime.toNat = 0x100000001b3 := rfl
  apply BitVec.eq_of_toNat_eq
  rw [foldHash, BitVec.toNat_mul, hxor, hprime, State.V_toNat]
  simp only [State.limbFold, limbTemps, BitVec.toNat_ofNat, Config.primeLow, Nat.shiftRight_eq_div_pow, Nat.shiftLeft_eq]
  exact (carryChain_eq_product rfl rfl rfl rfl).symm

/-- A state whose V alone has changed is that V written. -/
theorem State.limbFold_eq_setV (s : State) (b : Byte) : s.limbFold b = s.setV (s.limbFold b).V := by
  simp only [State.setV, limbOf_zero_V, limbOf_one_V, limbOf_two_V, limbOf_three_V]
  rfl

theorem State.limbFold_eq_fold (s : State) (b : Byte) : s.limbFold b = s.fold b := by
  rw [State.limbFold_eq_setV, State.limbFold_V, State.fold_eq_setV]

/-! ## The fold is a bijection (R157) -/

/-- The prime is odd, so it has an inverse modulo 2^64. -/
def fnvPrimeInverse : Hash := 0xce965057aff6957b#64

theorem fnvPrimeInverse_mul_fnvPrime : fnvPrimeInverse * Config.fnvPrime = 1#64 := by decide

/-- The hash value before a fold, from the one after it. -/
def unfoldHash (v : Hash) (b : Byte) : Hash := (fnvPrimeInverse * v) ^^^ b.setWidth 64

theorem unfoldHash_foldHash (v : Hash) (b : Byte) : unfoldHash (foldHash v b) b = v := by
  rw [unfoldHash, foldHash, ← BitVec.mul_assoc, fnvPrimeInverse_mul_fnvPrime, BitVec.one_mul, BitVec.xor_assoc,
    BitVec.xor_self, BitVec.xor_zero]

theorem foldHash_unfoldHash (v : Hash) (b : Byte) : foldHash (unfoldHash v b) b = v := by
  rw [unfoldHash, foldHash, BitVec.xor_assoc, BitVec.xor_self, BitVec.xor_zero, ← BitVec.mul_assoc,
    BitVec.mul_comm Config.fnvPrime, fnvPrimeInverse_mul_fnvPrime, BitVec.one_mul]

/-! ## FOLD (R155) -/

theorem exec_fold_of_open {s : State} (hd : s.done = false) (hp : s.pv = false) (b : Byte) :
    exec (.fold b) s = .next (s.fold b) := by
  simp [exec, execFold, State.sequenceError, hd, hp]

theorem decode_foldWord (b : Byte) : decode (BitVec.ofNat 32 (0x04000000 + b.toNat)) = .cmd (.fold b) := by
  have hb := b.isLt
  have himm : b.toNat / 256 = 0 := by omega
  rw [show 0x04000000 = 4 * 2 ^ 24 from rfl, decode_ofNat_opc_imm (by decide) (by omega)]
  simp [decodeFields, himm]

/-! ## The statements -/

/-- Settles O32: the XOR meets one byte, and the carry chain is the product's limbs. -/
theorem limbDatapathIsTheFold : Obligations.LimbDatapathIsTheFold :=
  fun s b => ⟨s.V_xor_byte b, highByte_limbXor s.v0 b, s.limbFold_eq_fold b⟩

/-- Settles O33: the bounds hold by `limbTemps_bounds`, lie below 2^25 and 2^26, and are reached. -/
theorem limbTemporariesFit : Obligations.LimbTemporariesFit := by
  refine ⟨?_, limbTemps_allOnes⟩
  rintro v0 v1 v2 v3 b t rfl
  obtain ⟨h0, h1, h2, h3⟩ := limbTemps_bounds v0 v1 v2 v3 b
  omega

/-- Settles O34: the inverse of the prime and a second XOR take a fold back. -/
theorem foldIsABijection : Obligations.FoldIsABijection := fun b =>
  Function.bijective_iff_has_inverse.2
    ⟨fun v => unfoldHash v b, fun v => unfoldHash_foldHash v b, fun v => foldHash_unfoldHash v b⟩

/-- Settles O23: FOLD is the fold where no state check rejects it, and its word decodes to it unless a bit of 23:8 is set. -/
theorem foldFoldsTheRawByte : Obligations.FoldFoldsTheRawByte := by
  obtain ⟨-, -, -, -, -, -, hafter, hpending, -⟩ := sequencingRejections
  refine ⟨fun s b hd hp => ?_, hafter, fun s b hd hp => hpending s b hp hd,
    fun s b => applyWord_of_cmd (decode_foldWord b) s,
    fun w s ho hspoiled => applyWord_of_reject (decode_eq_reservedField_of_byteOpcode (.inl ho) hspoiled) s⟩
  refine ⟨s.fold b, exec_fold_of_open hd hp b, ?_, s.fold_frame b⟩
  rw [State.fold_V, foldHash, BitVec.mul_comm, Config.fnvPrime]

end Sys2Proof.Machine

/-! # Proofs: the byte sequence of an input

The four-byte form (R124), the equations of E (R125), the ranges of its bytes (R131) and their number (R237), and E of the code
units of a text (R125). -/

namespace Sys2Proof.Machine

/-! ## The four-byte form (R124) -/

/-- The ten low bits of a unit, as the source masks them. -/
theorem payload_toNat (u : CodeUnit) : (u.extractLsb' 0 10).toNat = u.toNat &&& 0x3FF := by
  rw [BitVec.extractLsb'_toNat, Nat.shiftRight_zero, ← Nat.and_two_pow_sub_one_eq_mod u.toNat 10]

theorem pair_toNat (hi lo : CodeUnit) :
    (pair hi lo).toNat = 0x10000 + ((hi.toNat &&& 0x3FF) <<< 10) + (lo.toNat &&& 0x3FF) := by
  have hhi := (hi.extractLsb' 0 10).isLt
  have hlo := (lo.extractLsb' 0 10).isLt
  rw [← payload_toNat, ← payload_toNat, pair, BitVec.toNat_add, BitVec.toNat_add, BitVec.toNat_shiftLeft,
    BitVec.toNat_setWidth, BitVec.toNat_setWidth, BitVec.toNat_ofNat, Nat.shiftLeft_eq, Nat.shiftLeft_eq]
  omega

theorem pair_range (hi lo : CodeUnit) : 0x10000 ≤ (pair hi lo).toNat ∧ (pair hi lo).toNat ≤ 0x10FFFF := by
  have hhi := (hi.extractLsb' 0 10).isLt
  have hlo := (lo.extractLsb' 0 10).isLt
  rw [payload_toNat] at hhi hlo
  rw [pair_toNat, Nat.shiftLeft_eq]
  omega

/-- The lead byte of the four-byte form: three bits of payload hold `cp >> 18` for every code point. -/
theorem enc4_lead_toNat (cp : CodePoint) :
    (0xF0#8 ||| (cp.extractLsb' 18 3).setWidth 8).toNat = 0xF0 ||| (cp.toNat >>> 18) := by
  have hfit : cp.toNat >>> 18 % 2 ^ 3 % 2 ^ 8 = cp.toNat >>> 18 := by omega
  rw [BitVec.toNat_or, BitVec.toNat_setWidth, BitVec.extractLsb'_toNat, hfit]
  rfl

theorem enc4_toNat (cp : CodePoint) :
    (enc4 cp).map BitVec.toNat =
      [0xF0 ||| (cp.toNat >>> 18), 0x80 ||| ((cp.toNat >>> 12) &&& 0x3F), 0x80 ||| ((cp.toNat >>> 6) &&& 0x3F),
       0x80 ||| (cp.toNat &&& 0x3F)] := by
  simp only [enc4, List.map_cons, List.map_nil, enc4_lead_toNat, continuation_extractLsb'_toNat, Nat.shiftRight_zero]

/-- Three payload bits stand below the marker 0b11110 of a lead byte. -/
theorem fourByteMarker_or {x : Nat} (h : x < 2 ^ 3) : 0xF0 ||| x = 0xF0 + x :=
  (Nat.shiftLeft_add_eq_or_of_lt h 0b11110).symm

theorem enc4_lead_range (hi lo : CodeUnit) :
    ∀ lead ∈ (enc4 (pair hi lo)).head?, 0xF0 ≤ lead.toNat ∧ lead.toNat ≤ 0xF4 := by
  intro lead hlead
  obtain rfl : _ = lead := Option.some.inj hlead
  obtain ⟨hmin, hmax⟩ := pair_range hi lo
  rw [enc4_lead_toNat, fourByteMarker_or (by omega)]
  omega

/-! ## The equations of E (R125) -/

theorem encodeUnits_pair {u lo : CodeUnit} (hu : isHigh u = true) (hlo : isLow lo = true) (rest : List CodeUnit) :
    encodeUnits (u :: lo :: rest) = enc4 (pair u lo) ++ encodeUnits rest := by
  rw [encodeUnits, hu, hlo, Bool.and_self, if_pos rfl]

/-- A unit that starts no pair is encoded alone. -/
theorem encodeUnits_alone {u : CodeUnit} {rest : List CodeUnit}
    (h : ∀ lo ∈ rest.head?, ¬ (isHigh u = true ∧ isLow lo = true)) :
    encodeUnits (u :: rest) = encodeAlone u ++ encodeUnits rest := by
  cases rest with
  | nil => rw [encodeUnits_singleton, encodeUnits, List.append_nil]
  | cons lo rest =>
    have hnot := h lo rfl
    rw [encodeUnits, if_neg (by rwa [Bool.and_eq_true])]

theorem encodeUnits_of_not_isHigh {u : CodeUnit} (h : isHigh u = false) (rest : List CodeUnit) :
    encodeUnits (u :: rest) = encodeAlone u ++ encodeUnits rest :=
  encodeUnits_alone fun _ _ => by simp [h]

/-- A HIGH that no LOW follows is encoded alone (R130). -/
theorem encodeUnits_of_not_isLow {u v : CodeUnit} (h : isLow v = false) (rest : List CodeUnit) :
    encodeUnits (u :: v :: rest) = encodeAlone u ++ encodeUnits (v :: rest) :=
  encodeUnits_alone fun lo hlo => by
    obtain rfl : v = lo := Option.some.inj hlo
    simp [h]

/-- E's recursion, as an induction: each input is empty, or starts with a pair, or with a unit encoded alone. -/
theorem encodeUnits_induction {P : List CodeUnit → List Byte → Prop} (nil : P [] [])
    (pair : ∀ u lo rest, isHigh u = true → isLow lo = true → P rest (encodeUnits rest) →
      P (u :: lo :: rest) (enc4 (pair u lo) ++ encodeUnits rest))
    (alone : ∀ u rest, P rest (encodeUnits rest) → P (u :: rest) (encodeAlone u ++ encodeUnits rest)) :
    ∀ us, P us (encodeUnits us) := by
  intro us
  induction us using encodeUnits.induct with
  | case1 => rwa [encodeUnits]
  | case2 u =>
    have h := alone u [] (by rwa [encodeUnits])
    rwa [encodeUnits, List.append_nil] at h
  | case3 u lo rest hpair ih =>
    obtain ⟨hu, hlo⟩ := (Bool.and_eq_true _ _).mp hpair
    rw [encodeUnits_pair hu hlo]
    exact pair u lo rest hu hlo ih
  | case4 u lo rest hpair ih =>
    rw [encodeUnits, if_neg hpair]
    exact alone u _ ih

/-! ## The ranges of the bytes (R131) -/

/-- Six payload bits stand below the marker 0b10 of a continuation byte. -/
theorem continuationMarker_or {x : Nat} (h : x < 2 ^ 6) : 0x80 ||| x = 0x80 + x :=
  (Nat.shiftLeft_add_eq_or_of_lt h 0b10).symm

theorem continuation_toNat (x : BitVec 6) : (continuation x).toNat = 0x80 + x.toNat := by
  rw [continuation, BitVec.toNat_or, BitVec.toNat_setWidth, Nat.mod_eq_of_lt (by omega)]
  exact continuationMarker_or x.isLt

theorem continuation_range (x : BitVec 6) : 0x80 ≤ (continuation x).toNat ∧ (continuation x).toNat ≤ 0xBF := by
  have hx := x.isLt
  rw [continuation_toNat]
  omega

theorem enc2_tail_range (u : CodeUnit) : ∀ b ∈ (enc2 u).tail, 0x80 ≤ b.toNat ∧ b.toNat ≤ 0xBF := by
  simp [enc2, continuation_range]

theorem enc3_tail_range (u : CodeUnit) : ∀ b ∈ (enc3 u).tail, 0x80 ≤ b.toNat ∧ b.toNat ≤ 0xBF := by
  simp [enc3, continuation_range]

theorem enc4_tail_range (cp : CodePoint) : ∀ b ∈ (enc4 cp).tail, 0x80 ≤ b.toNat ∧ b.toNat ≤ 0xBF := by
  simp [enc4, continuation_range]

/-- The bytes that UTF-8's shape allows: all but 0xC0, 0xC1 and 0xF5..0xFF. -/
def producible (b : Byte) : Prop := b ≠ 0xC0#8 ∧ b ≠ 0xC1#8 ∧ b.toNat < 0xF5

theorem producible_iff (b : Byte) : producible b ↔ b.toNat < 0xC0 ∨ (0xC2 ≤ b.toNat ∧ b.toNat < 0xF5) := by
  rw [producible, ne_eq, ne_eq, ← BitVec.toNat_inj, ← BitVec.toNat_inj, BitVec.toNat_ofNat, BitVec.toNat_ofNat]
  omega

/-- A list is its head and its tail. -/
theorem producible_of_head_tail {bs : List Byte} (hhead : ∀ b ∈ bs.head?, 0xC2 ≤ b.toNat ∧ b.toNat ≤ 0xF4)
    (htail : ∀ b ∈ bs.tail, 0x80 ≤ b.toNat ∧ b.toNat ≤ 0xBF) : ∀ b ∈ bs, producible b := by
  cases bs with
  | nil => simp
  | cons lead rest =>
    refine List.forall_mem_cons.2 ⟨?_, fun b hb => ?_⟩ <;> rw [producible_iff]
    · have := hhead lead rfl
      omega
    · have := htail b hb
      omega

theorem enc1_range {u : CodeUnit} (h : u.toNat < 0x80) : ∀ b ∈ enc1 u, b.toNat ≤ 0x7F := by
  intro b hb
  rw [enc1, List.mem_singleton] at hb
  rw [hb, lowByte_toNat]
  omega

/-- The bytes of a unit alone, by its class. -/
theorem encodeAlone_producible (u : CodeUnit) : ∀ b ∈ encodeAlone u, producible b := by
  by_cases hone : u.toNat < 0x80
  · intro b hb
    rw [encodeAlone_of_isOne ((isOne_iff u).2 hone)] at hb
    have := enc1_range hone b hb
    rw [producible_iff]
    omega
  · by_cases htwo : u.toNat < 0x800
    · rw [encodeAlone_of_two (by omega) htwo]
      refine producible_of_head_tail (fun b hb => ?_) (enc2_tail_range u)
      have := enc2_lead_range (by omega) htwo b hb
      omega
    · rw [encodeAlone_of_three (by omega)]
      refine producible_of_head_tail (fun b hb => ?_) (enc3_tail_range u)
      have := enc3_lead_range u b hb
      omega

theorem enc4_producible (hi lo : CodeUnit) : ∀ b ∈ enc4 (pair hi lo), producible b := by
  refine producible_of_head_tail (fun b hb => ?_) (enc4_tail_range _)
  have := enc4_lead_range hi lo b hb
  omega

theorem encodeUnits_producible (us : List CodeUnit) : ∀ b ∈ encodeUnits us, producible b := by
  apply encodeUnits_induction (P := fun _ bs => ∀ b ∈ bs, producible b)
  · simp
  · exact fun u lo _ _ _ ih => List.forall_mem_append.2 ⟨enc4_producible u lo, ih⟩
  · exact fun u _ ih => List.forall_mem_append.2 ⟨encodeAlone_producible u, ih⟩

/-- A surrogate's raw value: bits 11:6 of 0xD800..0xDFFF start with a 1. -/
theorem enc3_of_surrogate {u : CodeUnit} (h : isHigh u = true ∨ isLow u = true) :
    ∃ b c : Byte, enc3 u = [0xED#8, b, c] ∧ 0xA0 ≤ b.toNat ∧ b.toNat ≤ 0xBF := by
  obtain ⟨hlo, hhi⟩ := surrogate_range h
  have hlead : 0xE0#8 ||| (u.extractLsb' 12 4).setWidth 8 = 0xED#8 := Option.some.inj (enc3_head?_of_surrogate h)
  refine ⟨continuation (u.extractLsb' 6 6), continuation (u.extractLsb' 0 6), by rw [enc3, hlead], ?_⟩
  rw [continuation_toNat, BitVec.extractLsb'_toNat, Nat.shiftRight_eq_div_pow]
  omega

/-! ## The number of bytes (R237) -/

theorem encodeAlone_length (u : CodeUnit) : (encodeAlone u).length = if isOne u then 1 else if isTwo u then 2 else 3 := by
  rw [encodeAlone]
  split
  · rfl
  · split <;> rfl

theorem encodeUnits_length_bounds (us : List CodeUnit) :
    us.length ≤ (encodeUnits us).length ∧ (encodeUnits us).length ≤ 3 * us.length := by
  apply encodeUnits_induction (P := fun us bs => us.length ≤ bs.length ∧ bs.length ≤ 3 * us.length)
  · simp
  · intro u lo rest _ _ ih
    simp only [List.length_append, List.length_cons, enc4, List.length_nil]
    omega
  · intro u rest ih
    simp only [List.length_append, List.length_cons, encodeAlone_length]
    split_ifs <;> omega

/-! ## The code units of a text (R79, R125) -/

/-- UTF-8 of a number, byte by byte: the forms of R121 to R124 with their markers as sums. -/
def utf8Numbers (v : Nat) : List Nat :=
  if v ≤ 0x7F then [v]
  else if v ≤ 0x7FF then [0xC0 + v / 2 ^ 6, 0x80 + v % 2 ^ 6]
  else if v ≤ 0xFFFF then [0xE0 + v / 2 ^ 12, 0x80 + v / 2 ^ 6 % 2 ^ 6, 0x80 + v % 2 ^ 6]
  else [0xF0 + v / 2 ^ 18, 0x80 + v / 2 ^ 12 % 2 ^ 6, 0x80 + v / 2 ^ 6 % 2 ^ 6, 0x80 + v % 2 ^ 6]

/-- A continuation byte's masked and marked number as a sum. -/
theorem continuationMarker_or_and (n : Nat) : 0x80 ||| (n &&& 0x3F) = 0x80 + n % 2 ^ 6 := by
  rw [Nat.and_two_pow_sub_one_eq_mod n 6, continuationMarker_or (Nat.mod_lt n (by decide))]

theorem encodeAlone_toNat (u : CodeUnit) : (encodeAlone u).map BitVec.toNat = utf8Numbers u.toNat := by
  have hu := u.isLt
  unfold utf8Numbers
  split_ifs with hone htwo
  · rw [encodeAlone_of_isOne ((isOne_iff u).2 (by omega)), enc1_toNat (by omega)]
  · rw [encodeAlone_of_two (by omega) (by omega), enc2_toNat (by omega), continuationMarker_or_and,
      Nat.shiftRight_eq_div_pow, twoByteMarker_or (by omega)]
  · rw [encodeAlone_of_three (by omega), enc3_toNat, continuationMarker_or_and, continuationMarker_or_and,
      Nat.shiftRight_eq_div_pow, Nat.shiftRight_eq_div_pow, threeByteMarker_or (by omega)]
  · omega

theorem enc4_toNat_eq_utf8Numbers {cp : CodePoint} (h : 0x10000 ≤ cp.toNat) :
    (enc4 cp).map BitVec.toNat = utf8Numbers cp.toNat := by
  have hcp := cp.isLt
  rw [enc4_toNat, utf8Numbers, if_neg (by omega), if_neg (by omega), if_neg (by omega), continuationMarker_or_and,
    continuationMarker_or_and, continuationMarker_or_and, Nat.shiftRight_eq_div_pow, Nat.shiftRight_eq_div_pow,
    Nat.shiftRight_eq_div_pow, fourByteMarker_or (by omega)]

/-- Lean's encoder writes the same numbers (log entry 11). -/
theorem utf8EncodeChar_toNat (c : Char) :
    ((String.utf8EncodeChar c).map UInt8.toBitVec).map BitVec.toNat = utf8Numbers c.toNat := by
  have hvalid : c.toNat < 0xD800 ∨ 0xDFFF < c.toNat ∧ c.toNat < 0x110000 := c.valid
  have hval : c.val.toNat = c.toNat := rfl
  simp only [String.utf8EncodeChar, utf8Numbers, hval]
  split_ifs <;>
    simp only [List.map_cons, List.map_nil, UInt8.toNat_toBitVec, UInt8.toNat_ofNat', List.cons.injEq, and_true] <;>
    omega

/-- A character up to U+FFFF is its own code unit, which is no surrogate (R79). -/
theorem utf16_of_le {c : Char} (h : c.toNat ≤ 0xFFFF) :
    ∃ u, utf16 c = [u] ∧ u.toNat = c.toNat ∧ isHigh u = false := by
  have hvalid : c.toNat < 0xD800 ∨ 0xDFFF < c.toNat ∧ c.toNat < 0x110000 := c.valid
  have hu : (BitVec.ofNat 16 c.toNat).toNat = c.toNat := by
    rw [BitVec.toNat_ofNat]
    omega
  refine ⟨BitVec.ofNat 16 c.toNat, by rw [utf16, if_pos h], hu, ?_⟩
  rw [← Bool.not_eq_true, isHigh_iff, hu]
  omega

/-- A character above U+FFFF is a surrogate pair, high first, that pairs back to it (R79, R124). -/
theorem utf16_of_gt {c : Char} (h : 0xFFFF < c.toNat) :
    ∃ hi lo, utf16 c = [hi, lo] ∧ isHigh hi = true ∧ isLow lo = true ∧ (pair hi lo).toNat = c.toNat := by
  have hvalid : c.toNat < 0xD800 ∨ 0xDFFF < c.toNat ∧ c.toNat < 0x110000 := c.valid
  refine ⟨_, _, by rw [utf16, if_neg (by omega)], ?_, ?_, ?_⟩
  · rw [isHigh_iff, BitVec.toNat_add, BitVec.toNat_ofNat, BitVec.toNat_ofNat]
    omega
  · rw [isLow_iff, BitVec.toNat_add, BitVec.toNat_ofNat, BitVec.toNat_ofNat]
    omega
  · rw [pair_toNat, Nat.and_two_pow_sub_one_eq_mod _ 10, Nat.and_two_pow_sub_one_eq_mod _ 10, Nat.shiftLeft_eq,
      BitVec.toNat_add, BitVec.toNat_add, BitVec.toNat_ofNat, BitVec.toNat_ofNat, BitVec.toNat_ofNat, BitVec.toNat_ofNat]
    omega

theorem bytes_eq_of_toNat_eq {bs cs : List Byte} (h : bs.map BitVec.toNat = cs.map BitVec.toNat) : bs = cs :=
  List.map_injective_iff.2 BitVec.toNat_injective h

/-- A character's code units start no pair but their own, so E encodes them before the rest. -/
theorem encodeUnits_utf16_append (c : Char) (rest : List CodeUnit) :
    encodeUnits (utf16 c ++ rest) = (String.utf8EncodeChar c).map UInt8.toBitVec ++ encodeUnits rest := by
  by_cases h : c.toNat ≤ 0xFFFF
  · obtain ⟨u, hc, hu, hhigh⟩ := utf16_of_le h
    rw [hc, List.singleton_append, encodeUnits_of_not_isHigh hhigh]
    congr 1
    exact bytes_eq_of_toNat_eq (by rw [encodeAlone_toNat, utf8EncodeChar_toNat, hu])
  · obtain ⟨hi, lo, hc, hhi, hlo, hpair⟩ := utf16_of_gt (by omega : 0xFFFF < c.toNat)
    rw [hc, List.cons_append, List.singleton_append, encodeUnits_pair hhi hlo]
    congr 1
    exact bytes_eq_of_toNat_eq (by rw [enc4_toNat_eq_utf8Numbers (by omega), utf8EncodeChar_toNat, hpair])

theorem encodeUnits_utf16Text (s : List Char) :
    encodeUnits (utf16Text s) = (s.flatMap String.utf8EncodeChar).map UInt8.toBitVec := by
  induction s with
  | nil => rw [utf16Text, List.flatMap_nil, List.flatMap_nil, encodeUnits, List.map_nil]
  | cons c s ih =>
    rw [utf16Text, List.flatMap_cons, List.flatMap_cons, encodeUnits_utf16_append, List.map_append, ← ih, utf16Text]

/-! ## The statements -/

/-- Settles O39, by induction on the text: a character's code units and Lean's encoder give the same numbers. -/
theorem textBytesAreStandardUtf8 : Obligations.TextBytesAreStandardUtf8 := encodeUnits_utf16Text

/-- Settles O36: the code point and the bytes as numbers, and the lead's payload is at most 4. -/
theorem fourByteForm : Obligations.FourByteForm := by
  rintro hi lo cp rfl
  obtain ⟨hmin, hmax⟩ := pair_range hi lo
  rw [pair_toNat] at hmin hmax
  refine ⟨pair_toNat hi lo, hmin, hmax, ?_, enc4_lead_range hi lo⟩
  rw [enc4_toNat, pair_toNat]

/-- Settles O37: a pair is encoded by the four-byte form, and every other unit alone, by its range. -/
theorem byteSequenceEquations : Obligations.ByteSequenceEquations := by
  refine ⟨by rw [encodeUnits], fun u rest => ⟨fun h => ?_, fun hlo hhi => ?_, ?_, fun h hnot => ?_⟩⟩
  · have hhigh : isHigh u = false := by
      rw [← Bool.not_eq_true, isHigh_iff]
      omega
    rw [encodeUnits_of_not_isHigh hhigh, encodeAlone_of_isOne ((isOne_iff u).2 h)]
  · have hhigh : isHigh u = false := by
      rw [← Bool.not_eq_true, isHigh_iff]
      omega
    rw [encodeUnits_of_not_isHigh hhigh, encodeAlone_of_two hlo hhi]
  · rintro lo rest' rfl hulo huhi hllo hlhi
    exact encodeUnits_pair ((isHigh_iff u).2 ⟨hulo, huhi⟩) ((isLow_iff lo).2 ⟨hllo, hlhi⟩) rest'
  · rw [encodeUnits_alone, encodeAlone_of_three h]
    intro lo hlo
    obtain ⟨rest', rfl⟩ := List.head?_eq_some_iff.1 hlo
    have := hnot lo rest' rfl
    rw [isHigh_iff, isLow_iff]
    omega

/-- Settles O40: by the recursion of E every byte is a form's, and each form's bytes lie in the allowed ranges. -/
theorem producedByteRanges : Obligations.ProducedByteRanges :=
  ⟨encodeUnits_producible, fun _ => enc1_range,
    fun u => List.forall_mem_append.2 ⟨enc2_tail_range u, enc3_tail_range u⟩, enc4_tail_range, fun _ => enc3_of_surrogate⟩

end Sys2Proof.Machine

/-! # Proofs: the stream of bytes of a whole input

UNIT by UNIT the bytes folded so far and the pending unit account for E of the units so far (R128): `State.pendingUnits` is what the
input still owes. From it follow the streaming equivalence, the digest of every text (R185, R188) and the FOLD route (R155). -/

namespace Sys2Proof.Machine

/-! ## The bytes each command folds (R126, R127) -/

/-- For every command but INIT the bytes counted are the ones folded into V. -/
theorem exec_V {i : Instr} {s t : State} (hi : i ≠ .init) (h : exec i s = .next t) :
    t.V = foldAll s.V (bytesFolded i s) := by
  obtain ⟨c, hc, rfl⟩ | ⟨ha, ⟨rfl, rfl⟩ | ⟨rfl, -⟩ | ⟨u, rfl, rfl⟩ | ⟨rfl, rfl⟩ | ⟨b, rfl, rfl⟩ | ⟨b, rfl, rfl⟩⟩ :=
    exec_cases h
  · simp [bytesFolded, hc]
  · simp [bytesFolded, ha]
  · exact absurd rfl hi
  · simp [bytesFolded, ha]
  · simp [bytesFolded, ha]
  · simp [bytesFolded, ha]
  · simp [bytesFolded, ha]

theorem bytesFolded_unit_of_open {s : State} (h : s.done = false) (u : CodeUnit) :
    bytesFolded (.unit u) s = unitBytes s.pv s.pend u := by
  simp [bytesFolded, State.sequenceError, h]

theorem bytesFolded_endInput (s : State) : bytesFolded .endInput s = endBytes s.pv s.pend := by
  simp [bytesFolded, State.sequenceError]

/-! ## Lists of commands -/

theorem execAll_cons {i : Instr} {s r : State} (h : exec i s = .next r) (is : List Instr) :
    execAll (i :: is) s = execAll is r := by
  rw [execAll, h]

theorem foldedBytes_cons {i : Instr} {s r : State} (h : exec i s = .next r) (is : List Instr) :
    foldedBytes (i :: is) s = bytesFolded i s ++ foldedBytes is r := by
  rw [foldedBytes, h]

/-- A run over a command and more commands passes through the state the command leaves. -/
theorem execAll_cons_eq_next {i : Instr} {is : List Instr} {s t : State} (h : execAll (i :: is) s = .next t) :
    ∃ r, exec i s = .next r ∧ execAll is r = .next t := by
  obtain ⟨r, hr⟩ := exec_completes i s
  exact ⟨r, hr, execAll_cons hr is ▸ h⟩

/-- Over commands without an INIT the bytes folded are all that V depends on. -/
theorem execAll_V {is : List Instr} {s t : State} (his : ∀ i ∈ is, i ≠ .init) (h : execAll is s = .next t) :
    t.V = foldAll s.V (foldedBytes is s) := by
  induction is generalizing s with
  | nil =>
    rw [execAll, Host.Outcome.next.injEq] at h
    rw [← h, foldedBytes, foldAll_nil]
  | cons i is ih =>
    obtain ⟨hi, hrest⟩ := List.forall_mem_cons.1 his
    obtain ⟨r, hr, ht⟩ := execAll_cons_eq_next h
    rw [foldedBytes_cons hr, foldAll_append, ← exec_V hi hr, ih hrest ht]

/-! ## The UNITs of an input and END -/

/-- The unit that an input still owes its bytes: the pending HIGH. -/
def State.pendingUnits (s : State) : List CodeUnit := if s.pv then [s.pend] else []

/-- What is pending is a HIGH: the second item of the invariant (R35). -/
def State.PendIsHigh (s : State) : Prop := s.pv = true → isHigh s.pend = true

/-- UNIT leaves a HIGH pending or nothing. -/
theorem State.acceptUnit_pending (s : State) (u : CodeUnit) :
    (s.acceptUnit u).pendingUnits = (if isHigh u then [u] else []) ∧ (s.acceptUnit u).PendIsHigh := by
  rw [State.acceptUnit_eq]
  cases hu : isHigh u with
  | true => simp [State.pendingUnits, State.PendIsHigh, hu]
  | false => cases hp : s.pv <;> simp [State.pendingUnits, State.PendIsHigh, hp]

theorem State.acceptUnit_pv (s : State) (u : CodeUnit) : (s.acceptUnit u).pv = isHigh u := by
  rw [State.acceptUnit_eq]
  cases hu : isHigh u <;> cases hp : s.pv <;> simp [hp]

/-- One UNIT's bytes, and then E of what is pending after it and of the units to come, are E of what was pending, of the unit
and of the units to come (R126 against R125). -/
theorem unitBytes_append_encodeUnits {s : State} (hs : s.PendIsHigh) (u : CodeUnit) (rest : List CodeUnit) :
    unitBytes s.pv s.pend u ++ encodeUnits ((s.acceptUnit u).pendingUnits ++ rest) =
      encodeUnits (s.pendingUnits ++ u :: rest) := by
  rw [(s.acceptUnit_pending u).1]
  cases hp : s.pv with
  | false =>
    cases hu : isHigh u with
    | true => simp [State.pendingUnits, unitBytes, hp, hu]
    | false => simp [State.pendingUnits, unitBytes, hp, hu, encodeUnits_of_not_isHigh hu]
  | true =>
    have hpend := encodeAlone_of_surrogate (.inl (hs hp))
    cases hl : isLow u with
    | true => simp [State.pendingUnits, unitBytes, hp, hl, isHigh_of_isLow hl, encodeUnits_pair (hs hp) hl]
    | false =>
      cases hu : isHigh u with
      | true => simp [State.pendingUnits, unitBytes, hp, hl, hu, encodeUnits_of_not_isLow hl, hpend]
      | false =>
        simp [State.pendingUnits, unitBytes, hp, hl, hu, encodeUnits_of_not_isLow hl, encodeUnits_of_not_isHigh hu, hpend]

/-- END folds the pending HIGH as E ends. -/
theorem endBytes_eq_encodeUnits {s : State} (hs : s.PendIsHigh) :
    endBytes s.pv s.pend = encodeUnits s.pendingUnits := by
  cases hp : s.pv with
  | false => simp [State.pendingUnits, endBytes, hp, encodeUnits]
  | true => simp [State.pendingUnits, endBytes, hp, encodeAlone_of_surrogate (.inl (hs hp))]

theorem units_endInput_ne_init (us : List CodeUnit) : ∀ i ∈ us.map Instr.unit ++ [.endInput], i ≠ .init := by
  simp only [List.mem_append, List.mem_map, List.mem_singleton]
  rintro i (⟨u, -, rfl⟩ | rfl) <;> simp

/-- By induction on the units: from any open state the UNITs and END complete, fold E of what is pending and of the units, and
keep the record and HEXR. -/
theorem execAll_units_endInput (us : List CodeUnit) {s : State} (hd : s.done = false) (hs : s.PendIsHigh) :
    foldedBytes (us.map .unit ++ [.endInput]) s = encodeUnits (s.pendingUnits ++ us) ∧
    ∃ t, execAll (us.map .unit ++ [.endInput]) s = .next t ∧ t.done = true ∧ t.pv = false ∧ t.err = s.err ∧
      t.ecode = s.ecode ∧ t.hexr = s.hexr := by
  induction us generalizing s with
  | nil =>
    have hend := exec_endInput s
    refine ⟨?_, s.flushPending.setDone true, ?_, by simp, by simp, by simp, by simp [State.flushPending_eq],
      by simp [State.flushPending_eq]⟩
    · rw [List.map_nil, List.nil_append, foldedBytes_cons hend, bytesFolded_endInput, endBytes_eq_encodeUnits hs,
        foldedBytes, List.append_nil, List.append_nil]
    · rw [List.map_nil, List.nil_append, execAll_cons hend, execAll]
  | cons u us ih =>
    have hunit := exec_unit_of_open hd u
    obtain ⟨hbytes, t, ht, hdone, hpv, herr, hecode, hhexr⟩ :=
      ih (s := s.acceptUnit u) (by simpa using hd) (s.acceptUnit_pending u).2
    refine ⟨?_, t, ?_, hdone, hpv, by simpa using herr, by simpa using hecode, by simpa using hhexr⟩
    · rw [List.map_cons, List.cons_append, foldedBytes_cons hunit, bytesFolded_unit_of_open hd, hbytes,
        unitBytes_append_encodeUnits hs]
    · rw [List.map_cons, List.cons_append, execAll_cons hunit, ht]

/-- The same where nothing is pending, with V (R128). -/
theorem execAll_units_endInput_of_clear (us : List CodeUnit) {s : State} (hd : s.done = false) (hp : s.pv = false) :
    foldedBytes (us.map .unit ++ [.endInput]) s = encodeUnits us ∧
    ∃ t, execAll (us.map .unit ++ [.endInput]) s = .next t ∧ t.V = foldAll s.V (encodeUnits us) ∧ t.done = true ∧
      t.pv = false ∧ t.err = s.err ∧ t.ecode = s.ecode ∧ t.hexr = s.hexr := by
  have hnone : s.pendingUnits = [] := by simp [State.pendingUnits, hp]
  obtain ⟨hbytes, t, ht, hframe⟩ := execAll_units_endInput us hd (by simp [State.PendIsHigh, hp] : s.PendIsHigh)
  rw [hnone, List.nil_append] at hbytes
  refine ⟨hbytes, t, ht, ?_, hframe⟩
  rw [execAll_V (units_endInput_ne_init us) ht, hbytes]

/-! ## INIT and an input, by either route (R155, R185) -/

/-- The state INIT leaves. -/
def State.initialised (s : State) : State := (s.setBasis.clearPending.setDone false).clearError

theorem exec_init_eq_initialised (s : State) : exec .init s = .next s.initialised := exec_init s

theorem State.initialised_V (s : State) : s.initialised.V = Config.offsetBasis := by
  simp [State.initialised]

/-- FOLDs from an open state with nothing pending are the folds of their bytes. -/
theorem execAll_fold (bs : List Byte) {s : State} (hd : s.done = false) (hp : s.pv = false) :
    execAll (bs.map .fold) s = .next (s.foldSeq bs) := by
  induction bs generalizing s with
  | nil => rfl
  | cons b bs ih =>
    have hd' : (s.fold b).done = false := hd
    have hp' : (s.fold b).pv = false := hp
    rw [List.map_cons, execAll_cons (exec_fold_of_open hd hp b), ih hd' hp', State.foldSeq_cons]

/-- The digest of every text: INIT opens a clear state, and the UNITs and END fold E of the text onto the basis. -/
theorem execAll_digestCommands (text : List CodeUnit) (s : State) :
    ∃ t, execAll (digestCommands text) s = .next t ∧ t.V = foldAll Config.offsetBasis (encodeUnits text) ∧
      t.done = true ∧ t.pv = false ∧ t.err = false ∧ t.ecode = 0#4 ∧ t.hexr = s.hexr := by
  obtain ⟨-, t, ht, hV, hframe⟩ := execAll_units_endInput_of_clear (s := s.initialised) text rfl rfl
  refine ⟨t, ?_, s.initialised_V ▸ hV, hframe⟩
  rw [digestCommands, execAll_cons (exec_init_eq_initialised s), ht]

/-! ## The bytes of one UNIT (R120, R126) -/

theorem isThree_iff (u : CodeUnit) :
    isThree u = true ↔ (0x800 ≤ u.toNat ∧ u.toNat ≤ 0xD7FF) ∨ 0xE000 ≤ u.toNat := by
  simp [isThree, BitVec.le_def]

/-- The five classes, by the ranges of R120, leave no unit out and share none. -/
theorem unit_has_one_class (u : CodeUnit) : [isOne u, isTwo u, isThree u, isHigh u, isLow u].count true = 1 := by
  simp only [List.count_cons, List.count_nil, beq_iff_eq, isOne_iff, isTwo_iff, isThree_iff, isHigh_iff, isLow_iff]
  split_ifs <;> omega

@[simp] theorem enc3_length (u : CodeUnit) : (enc3 u).length = 3 := rfl

@[simp] theorem enc4_length (cp : CodePoint) : (enc4 cp).length = 4 := rfl

/-- The byte table of R126. -/
theorem unitBytes_length (pv : Bool) (pend u : CodeUnit) :
    (unitBytes pv pend u).length =
      (if pv then
        (if isLow u then 4 else if isOne u then 4 else if isTwo u then 5 else if isThree u then 6 else 3)
       else (if isOne u then 1 else if isTwo u then 2 else if isHigh u then 0 else 3)) := by
  cases pv with
  | false =>
    simp only [unitBytes, Bool.false_eq_true, if_false, apply_ite List.length, List.length_nil, encodeAlone_length,
      isOne_iff, isTwo_iff, isHigh_iff]
    split_ifs <;> omega
  | true =>
    simp only [unitBytes, if_true, apply_ite List.length, List.length_append, List.length_nil, enc3_length, enc4_length,
      encodeAlone_length, isOne_iff, isTwo_iff, isThree_iff, isHigh_iff, isLow_iff]
    split_ifs <;> omega

/-! ## The statements -/

/-- Settles O38, by induction on the units with what is pending as part of the input. -/
theorem streamingEquivalence : Obligations.StreamingEquivalence := by
  intro us s hd hp
  obtain ⟨hbytes, t, ht, hV, hdone, hpv, herr, -, hhexr⟩ := execAll_units_endInput_of_clear us hd hp
  exact ⟨hbytes, t, ht, hV, hdone, hpv, herr, hhexr⟩

/-- Settles O50: INIT opens a clear state with the basis, and the stream of the text follows. -/
theorem digestOfEveryText : Obligations.DigestOfEveryText := by
  intro text s
  obtain ⟨t, ht, hV, hframe⟩ := execAll_digestCommands text s
  exact ⟨t, ht, by rw [hV, digest], hV, hframe⟩

/-- Settles O53: both routes fold E of the text onto the basis. -/
theorem foldRouteEqualsUnitRoute : Obligations.FoldRouteEqualsUnitRoute := by
  intro text s
  obtain ⟨t, ht, hV, -⟩ := execAll_digestCommands text s
  refine ⟨t, s.initialised.foldSeq (encodeUnits text), ht, ?_, ?_, ?_⟩
  · rw [execAll_cons (exec_init_eq_initialised s), execAll_fold _ rfl rfl]
  · rw [State.foldSeq_eq_setV, State.setV_V, State.initialised_V, hV]
  · rw [State.foldSeq_eq_setV, State.setV_err]
    rfl

/-- Settles O41: a form has one to three bytes for each unit of its own, and the stream folds E. -/
theorem atMostThreeBytesPerUnit : Obligations.AtMostThreeBytesPerUnit := by
  intro us s hd hp
  obtain ⟨hmin, hmax⟩ := encodeUnits_length_bounds us
  obtain ⟨hbytes, -⟩ := execAll_units_endInput_of_clear us hd hp
  exact ⟨hmin, hmax, by rw [hbytes]⟩

/-- Settles O25: the classes are disjoint ranges, and the bytes counted are the ones `exec` folds. -/
theorem unitByteCounts : Obligations.UnitByteCounts := by
  refine ⟨unit_has_one_class, fun i s t hi h => exec_V hi h, fun s t u hd h => ?_⟩
  rw [exec_unit_of_open hd, Host.Outcome.next.injEq] at h
  rw [bytesFolded_unit_of_open hd, unitBytes_length, ← h]
  refine ⟨s.acceptUnit_pv u, ?_, rfl⟩
  split_ifs <;> decide

end Sys2Proof.Machine

/-! # Proofs: UNIT's effect, the writers of each register, and idempotence

UNIT in the cases of R126, what each command leaves as it was (R20), and which commands are idempotent (R59). -/

namespace Sys2Proof.Machine

/-! ## UNIT's word and its effect, case by case (R126) -/

theorem decode_unitWord (u : CodeUnit) : decode (BitVec.ofNat 32 (0x02000000 + u.toNat)) = .cmd (.unit u) := by
  have hu := u.isLt
  rw [show 0x02000000 = 2 * 2 ^ 24 from rfl, decode_ofNat_opc_imm (by decide) (by omega)]
  simp [decodeFields]

/-- R120's cases for a unit alone, by number. -/
theorem encodeAlone_eq_by_range (u : CodeUnit) :
    encodeAlone u = if u.toNat < 0x80 then enc1 u else if u.toNat < 0x800 then enc2 u else enc3 u := by
  split_ifs with hone htwo
  · exact encodeAlone_of_isOne ((isOne_iff u).2 hone)
  · exact encodeAlone_of_two (by omega) htwo
  · exact encodeAlone_of_three (by omega)

/-- PEND after a UNIT: a HIGH waits; a pending unit is cleared; with nothing pending PEND is not written (log entry 8). -/
theorem State.acceptUnit_pend (s : State) (u : CodeUnit) :
    (s.acceptUnit u).pend = if isHigh u then u else if s.pv then 0x0000#16 else s.pend := by
  rw [State.acceptUnit_eq]
  split
  · rfl
  · split <;> rfl

/-- UNIT writes V, PV and PEND, and nothing else. -/
theorem State.acceptUnit_frame (s : State) (u : CodeUnit) :
    s.acceptUnit u =
      { s with v0 := (s.acceptUnit u).v0, v1 := (s.acceptUnit u).v1, v2 := (s.acceptUnit u).v2, v3 := (s.acceptUnit u).v3,
               pv := (s.acceptUnit u).pv, pend := (s.acceptUnit u).pend } := by
  rw [State.acceptUnit_eq]
  split
  · rfl
  · split <;> rfl

/-! ## What each command leaves unchanged (R20) -/

/-- No command touches the host's stream and read log (log entries 1 and 2). -/
theorem exec_keeps_host {i : Instr} {s t : State} (h : exec i s = .next t) :
    t.hostIn = s.hostIn ∧ t.hostOut = s.hostOut := by
  obtain ⟨c, -, rfl⟩ | ⟨-, ⟨-, rfl⟩ | ⟨-, rfl⟩ | ⟨u, -, rfl⟩ | ⟨-, rfl⟩ | ⟨b, -, rfl⟩ | ⟨b, -, rfl⟩⟩ := exec_cases h
  · exact ⟨rfl, rfl⟩
  · exact ⟨rfl, rfl⟩
  · exact ⟨rfl, rfl⟩
  · rw [State.acceptUnit_frame]
    exact ⟨rfl, rfl⟩
  · rw [State.flushPending_setDone_frame]
    exact ⟨rfl, rfl⟩
  · exact ⟨rfl, rfl⟩
  · exact ⟨rfl, rfl⟩

/-- DONE is written by INIT and END only (R25). -/
theorem exec_keeps_done {i : Instr} {s t : State} (h : exec i s = .next t) (hinit : i ≠ .init) (hend : i ≠ .endInput) :
    t.done = s.done := by
  obtain ⟨c, -, rfl⟩ | ⟨-, ⟨-, rfl⟩ | ⟨rfl, -⟩ | ⟨u, -, rfl⟩ | ⟨rfl, -⟩ | ⟨b, -, rfl⟩ | ⟨b, -, rfl⟩⟩ := exec_cases h
  · rfl
  · rfl
  · exact absurd rfl hinit
  · exact s.acceptUnit_done u
  · exact absurd rfl hend
  · rfl
  · rfl

/-- FOLD writes the limbs, or its rejection, and so keeps PV and PEND (R155). -/
theorem exec_fold_keeps_pending {b : Byte} {s t : State} (h : exec (.fold b) s = .next t) :
    t.pv = s.pv ∧ t.pend = s.pend := by
  cases hc : s.sequenceError (.fold b) with
  | some c =>
    rw [exec_of_sequenceError hc, Host.Outcome.next.injEq] at h
    exact h ▸ ⟨rfl, rfl⟩
  | none =>
    have hs : exec (.fold b) s = .next (s.fold b) := by simp [exec, execFold, hc]
    rw [hs, Host.Outcome.next.injEq] at h
    exact h ▸ ⟨rfl, rfl⟩

/-! ## Idempotence (R59) -/

theorem State.flushPending_of_clear {s : State} (hp : s.pv = false) : s.flushPending = s.clearPending := by
  rw [State.flushPending_eq, hp, endBytes, if_neg Bool.false_ne_true, foldAll_nil, State.setV_self]

@[simp] theorem State.clearPending_flushPending (s : State) : s.flushPending.clearPending = s.flushPending := by
  rw [State.flushPending_eq]
  rfl

/-- END is idempotent: the first one leaves nothing pending, and a second DONE is the first. -/
theorem exec_endInput_idempotent {s t : State} (h : exec .endInput s = .next t) : exec .endInput t = .next t := by
  rw [exec_endInput, Host.Outcome.next.injEq] at h
  rw [exec_endInput, ← h, State.flushPending_setDone, State.setDone_setDone,
    State.flushPending_of_clear s.flushPending_pv, State.clearPending_flushPending]

theorem exec_hexb_idempotent {b : Byte} {s t : State} (h : exec (.hexb b) s = .next t) : exec (.hexb b) t = .next t := by
  rw [exec_hexb, Host.Outcome.next.injEq] at h
  rw [exec_hexb, ← h]
  rfl

/-- A rejection leaves DONE and PV, so the word is rejected again, and ERR is set by then (R201). -/
theorem applyWord_rejected_idempotent {w : Word} {s t : State} (hw : s.acceptsWord w = false)
    (h : applyWord w s = .next t) : applyWord w t = .next t := by
  obtain ⟨c, hc, rfl⟩ | ⟨i, hi, ha, -⟩ := applyWord_cases h
  · have hagain : decode w = .reject c ∨ ∃ i, decode w = .cmd i ∧ (s.cmdError c).sequenceError i = some c := by
      simpa only [State.sequenceError_cmdError] using hc
    rw [applyWord_of_rejection hagain, State.cmdError_of_err (s.cmdError_err c)]
  · simp [State.acceptsWord, State.accepts, hi, ha] at hw

/-! ## The statements -/

/-- Settles O24: UNIT is `State.acceptUnit`, whose V, PV and PEND go by the classes, and which writes nothing else. -/
theorem unitFoldsWhatItCompletes : Obligations.UnitFoldsWhatItCompletes := by
  obtain ⟨-, -, -, -, -, hafter, -⟩ := sequencingRejections
  refine ⟨hafter, fun s u => applyWord_of_cmd (decode_unitWord u) s, fun s u high low fresh hhigh hlow hfresh hd => ?_⟩
  obtain rfl : high = (isHigh u = true) := propext (hhigh.trans (isHigh_iff u).symm)
  obtain rfl : low = (isLow u = true) := propext (hlow.trans (isLow_iff u).symm)
  obtain rfl := hfresh.trans (encodeAlone_eq_by_range u).symm
  refine ⟨s.acceptUnit u, exec_unit_of_open hd u, ?_, ?_, ?_, ?_, ?_, s.acceptUnit_frame u⟩ <;>
    rw [State.acceptUnit_V, State.acceptUnit_pv, State.acceptUnit_pend]
  · intro hp hl
    simp [unitBytes, hp, hl, isHigh_of_isLow hl]
  · intro hp hh
    have hl : isLow u = false := Bool.eq_false_iff.2 fun hl => by simp [isHigh_of_isLow hl] at hh
    simp [unitBytes, hp, hl, hh]
  · intro hp hl hh
    simp [unitBytes, hp, hl, hh]
  · intro hp hh
    simp [unitBytes, hp, hh]
  · intro hp hh
    simp [unitBytes, hp, hh]

/-- Settles O29: each clause is a frame lemma of `exec`, by the command. -/
theorem writersOfEachRegister : Obligations.WritersOfEachRegister := by
  intro i s t h
  refine ⟨?_, ?_, fun hinit hend => exec_keeps_done h hinit hend, fun hinit ha => exec_accepted_keeps_record h hinit ha,
    fun hi => exec_keeps_hexr h hi, fun hrej => ?_, exec_keeps_host h⟩
  · rintro (rfl | ⟨b, rfl⟩)
    · rw [exec_nop, Host.Outcome.next.injEq] at h
      exact h ▸ ⟨rfl, rfl, rfl, rfl⟩
    · rw [exec_hexb, Host.Outcome.next.injEq] at h
      exact h ▸ ⟨rfl, rfl, rfl, rfl⟩
  · rintro (rfl | ⟨b, rfl⟩ | ⟨b, rfl⟩)
    · rw [exec_nop, Host.Outcome.next.injEq] at h
      exact h ▸ ⟨rfl, rfl⟩
    · rw [exec_hexb, Host.Outcome.next.injEq] at h
      exact h ▸ ⟨rfl, rfl⟩
    · exact exec_fold_keeps_pending h
  · obtain ⟨c, hc⟩ := Option.ne_none_iff_exists'.1 hrej
    rw [exec_of_sequenceError hc, Host.Outcome.next.injEq] at h
    exact h ▸ rfl

/-- Settles O30: four commands by their effects, a rejection by the record it keeps, and UNIT and FOLD of 'a' after reset as
the two that are not idempotent. -/
theorem idempotentCommands : Obligations.IdempotentCommands := by
  refine ⟨?_, fun w s t hw h => applyWord_rejected_idempotent hw h, ?_, ?_⟩
  · rintro i s t (rfl | rfl | rfl | ⟨b, rfl⟩) h
    · exact exec_init_idempotent h
    · exact exec_endInput_idempotent h
    · exact exec_nop t
    · exact exec_hexb_idempotent h
  · exact ⟨State.reset, _, _, exec_unit_of_open rfl _, exec_unit_of_open rfl _, by decide⟩
  · exact ⟨State.reset, _, _, exec_fold_of_open rfl rfl _, exec_fold_of_open rfl rfl _, by decide⟩

end Sys2Proof.Machine

/-! # Proofs: the read port, the rendering, and what the host reads

The read port by its addresses (R21, R57), the digest as V in hexadecimal (R183, R184), and the events of a host run through the
step: words, then reads (R60). -/

namespace Sys2Proof.Machine

/-! ## The read port by address (R21, R57) -/

/-- An address is the one of its number. -/
theorem rdAddr_eq {a : RdAddr} {n : Nat} (h : a.toNat = n) : a = BitVec.ofNat 4 n := by
  rw [← h, BitVec.ofNat_toNat, BitVec.setWidth_eq]

/-- Byte `k` of V as a number (R30). -/
theorem hashByte_eq_ofNat (v : Hash) (k : Nat) : hashByte v k = BitVec.ofNat 8 (v.toNat / 2 ^ (56 - 8 * k)) := by
  apply BitVec.eq_of_toNat_eq
  rw [hashByte, BitVec.extractLsb'_toNat, BitVec.toNat_ofNat, Nat.shiftRight_eq_div_pow]

/-- NOP and HEXB show at address 0x6 only (R235). -/
theorem exec_nop_hexb_keeps_rd {i : Instr} {s t : State} (hi : i = .nop ∨ ∃ b, i = .hexb b) (h : exec i s = .next t)
    {a : RdAddr} (ha : a ≠ 0x6#4) : t.rd a = s.rd a := by
  obtain rfl | ⟨b, rfl⟩ := hi
  · rw [exec_nop, Host.Outcome.next.injEq] at h
    rw [h]
  · rw [exec_hexb, Host.Outcome.next.injEq] at h
    rw [← h, s.rd_setHexr _ ha]

theorem execAll_nop_hexb_keeps_rd {is : List Instr} {s t : State} (his : ∀ i ∈ is, i = .nop ∨ ∃ b, i = .hexb b)
    (h : execAll is s = .next t) {a : RdAddr} (ha : a ≠ 0x6#4) : t.rd a = s.rd a := by
  induction is generalizing s with
  | nil =>
    rw [execAll, Host.Outcome.next.injEq] at h
    rw [h]
  | cons i is ih =>
    obtain ⟨hi, hrest⟩ := List.forall_mem_cons.1 his
    obtain ⟨r, hr, ht⟩ := execAll_cons_eq_next h
    rw [ih hrest ht, exec_nop_hexb_keeps_rd hi hr ha]

/-! ## The digest, digit by digit (R182, R183) -/

/-- The sixteen lowercase digits (R101). -/
def hexDigits : List Char := ['0', '1', '2', '3', '4', '5', '6', '7', '8', '9', 'a', 'b', 'c', 'd', 'e', 'f']

/-- The code of a digit is its character's. -/
theorem hexDigits_getElem? : ∀ n : BitVec 4, hexDigits[n.toNat]? = some (Char.ofNat (digit n).toNat) := by decide

/-- Nibble `k` of V, counted from the most significant. -/
def hashNibble (v : Hash) (k : Nat) : BitVec 4 := v.extractLsb' (60 - 4 * k) 4

theorem hashNibble_toNat (v : Hash) (k : Nat) : (hashNibble v k).toNat = v.toNat / 16 ^ (15 - k) % 16 := by
  have hpow : 16 ^ (15 - k) = 2 ^ (60 - 4 * k) := by
    rw [show 16 = 2 ^ 4 from rfl, ← Nat.pow_mul, show 4 * (15 - k) = 60 - 4 * k by omega]
  rw [hashNibble, BitVec.extractLsb'_toNat, Nat.shiftRight_eq_div_pow, hpow]

/-- DigestBytes(V) are the bytes of V in order (R182). -/
theorem digestBytes_eq (v : Hash) : digestBytes v = (List.range 8).map (hashByte v) := by
  have h (k : Nat) (hk : k < 4) := hashByte_highByte v hk
  have l (k : Nat) (hk : k < 4) := hashByte_lowByte v hk
  simp only [digestBytes, ← h 0 (by decide), ← h 1 (by decide), ← h 2 (by decide), ← h 3 (by decide), ← l 0 (by decide),
    ← l 1 (by decide), ← l 2 (by decide), ← l 3 (by decide)]
  rfl

/-- Four bits of a byte of V are the four bits of V that stand there. -/
theorem nibble_hashByte (v : Hash) (k : Nat) {start : Nat} (h : start + 4 ≤ 8) :
    (hashByte v k).extractLsb' start 4 = v.extractLsb' (56 - 8 * k + start) 4 := by
  ext i hi
  have hbit : start + i < 8 := by omega
  simp only [hashByte, BitVec.getElem_extractLsb', BitVec.getLsbD_extractLsb', hbit, decide_true, Bool.true_and,
    Nat.add_assoc]

/-- A byte of V is spelled by its two nibbles of V (R183). -/
theorem hexstr_hashByte (v : Hash) {k : Nat} (hk : k < 8) :
    hexstr (hashByte v k) = [digit (hashNibble v (2 * k)), digit (hashNibble v (2 * k + 1))] := by
  have hhigh : 56 - 8 * k + 4 = 60 - 4 * (2 * k) := by omega
  have hlow : 56 - 8 * k + 0 = 60 - 4 * (2 * k + 1) := by omega
  rw [hexstr, highByte_hex, lowByte_hex, nibble_hashByte v k (by decide), nibble_hashByte v k (by decide), hhigh, hlow,
    hashNibble, hashNibble]

theorem flatMap_range_two {α : Type} (f : Nat → α) (n : Nat) :
    ((List.range n).flatMap fun k => [f (2 * k), f (2 * k + 1)]) = (List.range (2 * n)).map f := by
  induction n with
  | zero => rfl
  | succ n ih =>
    rw [List.range_succ, List.flatMap_append, ih, Nat.mul_succ, List.range_succ, List.range_succ]
    simp

/-- DigestString, one digit per nibble of V. -/
theorem digestString_eq (v : Hash) :
    digestString v = (List.range 16).map fun k => Char.ofNat (digit (hashNibble v k)).toNat := by
  have hcodes : digestCodes v = (List.range 16).map fun k => digit (hashNibble v k) := by
    rw [digestCodes, digestBytes_eq, List.flatMap_map, ← flatMap_range_two _ 8]
    exact List.flatMap_congr fun k hk => hexstr_hashByte v (List.mem_range.1 hk)
  rw [digestString, hcodes, List.map_map]
  rfl

theorem digestString_getElem? (v : Hash) {k : Nat} (hk : k < 16) :
    (digestString v)[k]? = hexDigits[v.toNat / 16 ^ (15 - k) % 16]? := by
  rw [← hashNibble_toNat, hexDigits_getElem?, digestString_eq, List.getElem?_map, List.getElem?_range hk, Option.map_some]

/-- A digest word is read as the two characters of its byte (R184). -/
theorem charsOfWords_map_hex (bs : List Byte) :
    charsOfWords (bs.map hex) = (bs.flatMap hexstr).map fun c => Char.ofNat c.toNat := by
  simp only [charsOfWords, List.flatMap_map, List.map_flatMap, hexstr, List.map_cons, List.map_nil]

theorem charsOfWords_digestWords (s : State) : charsOfWords (digAddrs.map s.rd) = digestString s.V := by
  have hwords : digAddrs.map s.rd = (digestBytes s.V).map hex := by
    rw [digestBytes_eq]
    rfl
  rw [hwords, charsOfWords_map_hex, digestString, digestCodes]

/-! ## The host's events through the step (R60; log entries 1 and 2) -/

@[simp] theorem State.setV_setHostIn (s : State) (es : List HostEvent) (v : Hash) :
    (s.setHostIn es).setV v = (s.setV v).setHostIn es := rfl

@[simp] theorem State.sequenceError_setHostIn (s : State) (es : List HostEvent) (i : Instr) :
    (s.setHostIn es).sequenceError i = s.sequenceError i :=
  State.sequenceError_congr rfl rfl i

theorem State.acceptUnit_setHostIn (s : State) (es : List HostEvent) (u : CodeUnit) :
    (s.setHostIn es).acceptUnit u = (s.acceptUnit u).setHostIn es := by
  rw [State.acceptUnit_eq, State.acceptUnit_eq, apply_ite (State.setHostIn · es), apply_ite (State.setHostIn · es)]
  rfl

/-- What the host does later makes no difference to a command. -/
theorem exec_setHostIn {i : Instr} {s t : State} (h : exec i s = .next t) (es : List HostEvent) :
    exec i (s.setHostIn es) = .next (t.setHostIn es) := by
  obtain ⟨c, hc, rfl⟩ | ⟨ha, ⟨rfl, rfl⟩ | ⟨rfl, rfl⟩ | ⟨u, rfl, rfl⟩ | ⟨rfl, rfl⟩ | ⟨b, rfl, rfl⟩ | ⟨b, rfl, rfl⟩⟩ :=
    exec_cases h
  · exact exec_of_sequenceError (by simpa using hc)
  · rfl
  · rfl
  · rw [exec_unit_of_open (s := s.setHostIn es) (State.done_of_unit_accepted (u := u) ha) u, State.acceptUnit_setHostIn]
  · rw [exec_endInput, State.flushPending_eq, State.flushPending_eq]
    rfl
  · simp [exec, execFold, ha, State.fold_eq_setV]
  · rfl

theorem applyWord_setHostIn {w : Word} {s t : State} (h : applyWord w s = .next t) (es : List HostEvent) :
    applyWord w (s.setHostIn es) = .next (t.setHostIn es) := by
  cases hw : decode w with
  | reject c =>
    rw [applyWord_of_reject hw, Host.Outcome.next.injEq] at h
    rw [applyWord_of_reject hw, ← h]
    rfl
  | cmd i =>
    rw [applyWord_of_cmd hw] at h
    rw [applyWord_of_cmd hw, exec_setHostIn h]

theorem applyWord_keeps_hostOut {w : Word} {s t : State} (h : applyWord w s = .next t) : t.hostOut = s.hostOut := by
  obtain ⟨c, -, rfl⟩ | ⟨i, -, -, hx⟩ := applyWord_cases h
  · rfl
  · exact (exec_keeps_host hx).2

theorem applyWords_keeps_hostOut {ws : List Word} {s t : State} (h : applyWords ws s = .next t) :
    t.hostOut = s.hostOut := by
  induction ws generalizing s with
  | nil =>
    rw [applyWords, Host.Outcome.next.injEq] at h
    rw [h]
  | cons w ws ih =>
    obtain ⟨r, hr, ht⟩ := applyWords_cons_eq_next h
    rw [ih ht, applyWord_keeps_hostOut hr]

/-- Runs compose. -/
theorem runSteps_add {m : Nat} {s t : State} (h : runSteps m s = .next t) (n : Nat) :
    runSteps (m + n) s = runSteps n t := by
  induction m generalizing s with
  | zero =>
    rw [runSteps, Host.Outcome.next.injEq] at h
    rw [h, Nat.zero_add]
  | succ m ih =>
    obtain ⟨r, hr⟩ := step_completes s
    rw [runSteps_succ hr] at h
    rw [Nat.succ_add, runSteps_succ hr, ih h]

/-- One step per word: the words at the head of the stream take effect in order, and what follows them stays. -/
theorem runSteps_words {ws : List Word} {s t : State} (h : applyWords ws s = .next t) (rest : List HostEvent) :
    runSteps ws.length (s.setHostIn (ws.map .command ++ rest)) = .next (t.setHostIn rest) := by
  induction ws generalizing s with
  | nil =>
    rw [applyWords, Host.Outcome.next.injEq] at h
    rw [h]
    rfl
  | cons w ws ih =>
    obtain ⟨r, hr, ht⟩ := applyWords_cons_eq_next h
    have hstep := (step_of_command (s.setHostIn_hostIn _)).trans (applyWord_setHostIn hr (ws.map .command ++ rest))
    exact (runSteps_succ hstep _).trans (ih ht)

/-- The answers of the read port to reads at these addresses. -/
def State.portReads (s : State) (as : List RdAddr) : List PortRead := as.map fun a => ⟨a, s.rd a⟩

theorem State.portReads_logRead (s : State) (r : PortRead) (as : List RdAddr) :
    (s.logRead r).portReads as = s.portReads as := rfl

/-- One step per read: each records its answer, and the core does not change under them. -/
theorem runSteps_reads (as : List RdAddr) (s : State) (rest : List HostEvent) :
    runSteps as.length (s.setHostIn (as.map .read ++ rest)) =
      .next { s with hostIn := rest, hostOut := s.hostOut ++ s.portReads as } := by
  induction as generalizing s with
  | nil => simp [runSteps, State.portReads, State.setHostIn]
  | cons a as ih =>
    have hstep : step (s.setHostIn (.read a :: (as.map .read ++ rest))) =
        .next ((s.logRead ⟨a, s.rd a⟩).setHostIn (as.map .read ++ rest)) := step_of_event (s.setHostIn_hostIn _)
    refine (runSteps_succ hstep _).trans ((ih _).trans ?_)
    rw [State.portReads_logRead, State.logRead_hostOut, List.append_assoc]
    rfl

/-- Words and then reads: what is read is of the state the words leave. -/
theorem runSteps_words_reads {ws : List Word} {as : List RdAddr} {rest : List HostEvent} {s t : State}
    (hin : s.hostIn = ws.map .command ++ as.map .read ++ rest) (h : applyWords ws s = .next t) :
    runSteps (ws.length + as.length) s =
      .next { t with hostIn := rest, hostOut := s.hostOut ++ t.portReads as } := by
  have hs : s = s.setHostIn (ws.map .command ++ (as.map .read ++ rest)) := by
    rw [← List.append_assoc, ← hin, State.setHostIn_self]
  rw [hs, runSteps_add (runSteps_words h _), runSteps_reads, ← hs, applyWords_keeps_hostOut h]

/-- Commands are their words. -/
theorem applyWords_encode (is : List Instr) (s : State) : applyWords (is.map encode) s = execAll is s := by
  induction is generalizing s with
  | nil => rfl
  | cons i is ih =>
    obtain ⟨r, hr⟩ := exec_completes i s
    rw [List.map_cons, applyWords, applyWord_of_cmd (decode_encode i), hr, execAll_cons hr]
    exact ih r

/-! ## The statements -/

/-- Settles O51: the words are INIT's, the UNITs' and END's, after which the digest words spell the digest. -/
theorem hostReadsTheDigestOfEveryText : Obligations.HostReadsTheDigestOfEveryText := by
  intro text s rest hin
  obtain ⟨t, ht, hV, -⟩ := execAll_digestCommands text s
  have hwords : (digestCommands text).map emit = ((digestCommands text).map encode).map .command := by
    rw [List.map_map]
    rfl
  rw [hwords] at hin
  have hrun := runSteps_words_reads hin ((applyWords_encode _ s).trans ht)
  have hlen : ((digestCommands text).map encode).length + digAddrs.length = text.length + 10 := by
    simp [digestCommands, digAddrs]
  rw [hlen] at hrun
  refine ⟨_, t.portReads digAddrs, hrun, rfl, rfl, ?_, ?_⟩
  · simp [State.portReads, Function.comp_def]
  · rw [State.portReads, List.map_map, digest, ← hV]
    exact charsOfWords_digestWords t

/-- Settles O44: address by address, and a read is `State.logRead`, which the port does not show. -/
theorem readPortMap : Obligations.ReadPortMap := by
  intro s a
  refine ⟨fun h => ?_, fun h => ?_, fun h => ?_, fun h => ?_, fun h => ?_, fun h => ?_, fun h => ?_, fun h => ?_,
    fun h => ?_, s.logRead ⟨a, s.rd a⟩, rfl, rfl, s.rd_logRead _⟩
  case refine_5 => rw [rdAddr_eq h, State.rd_status, State.status_toNat]
  case refine_9 => rw [s.rd_of_eight_le h, hashByte_eq_ofNat]
  all_goals
    rw [rdAddr_eq h]
    rfl

/-- Settles O49: one digit per nibble, and a digest word is the two digits of its byte. -/
theorem digestStringIsTheValueInHex : Obligations.DigestStringIsTheValueInHex := by
  refine ⟨fun v => ⟨?_, fun k hk => digestString_getElem? v hk⟩, charsOfWords_digestWords⟩
  rw [digestString_eq, List.length_map, List.length_range]

/-- Settles O54: the words before the read leave `t`, and the read is of `t`. -/
theorem readsSeeEveryEarlierCommand : Obligations.ReadsSeeEveryEarlierCommand := by
  intro ws a rest s t hin h
  have hin' : s.hostIn = ws.map .command ++ [a].map .read ++ rest := by simpa using hin
  exact ⟨_, runSteps_words_reads hin' h, rfl, rfl, rfl⟩

/-- Settles O55, by induction on the commands: neither shows at an address but HEXR's. -/
theorem nopAndHexbKeepMultiwordReads : Obligations.NopAndHexbKeepMultiwordReads := by
  intro is s t his h a ha
  refine execAll_nop_hexb_keeps_rd his h ?_
  rintro rfl
  simp at ha

end Sys2Proof.Machine

/-! # Proofs: the assembler, the narrower bus, the hex ROM's properties, and the state after reset

What a line assembles to (R78, R79), the one transfer of each word in the open byte order (R9), HEX as an injection (R104), and
that reset leaves what INIT leaves (R231). -/

namespace Sys2Proof.Machine

/-! ## The assembler (R78, R79) -/

theorem assembleLine_of_wf {l : AsmLine} (h : l.wf = true) : assembleLine l = some (expandLine l) := by
  rw [assembleLine, if_pos h]

theorem assembleLine_of_not_wf {l : AsmLine} (h : l.wf = false) : assembleLine l = none := by
  rw [assembleLine, h, if_neg Bool.false_ne_true]

/-- DIGEST is the commands of its text's digest (R79, R185). -/
theorem expandLine_digest (s : List Char) : expandLine (.digest s) = (digestCommands (utf16Text s)).map emit := by
  simp [expandLine, expandText, digestCommands, Function.comp_def]

/-- Every command word that a line other than `.word` emits is an instruction's. -/
theorem command_mem_expandLine {l : AsmLine} {w : Word} (hl : ∀ n, l ≠ .word n) (h : .command w ∈ expandLine l) :
    ∃ i, w = encode i := by
  have hemit : ∃ i, HostEvent.command w = emit i := by
    cases l with
    | word n => exact absurd rfl (hl n)
    | blank => simp [expandLine] at h
    | rd a => simp [expandLine] at h
    | readdig => simp [expandLine, expandReaddig] at h
    | nop | init | endInput => exact ⟨_, List.mem_singleton.1 h⟩
    | unit n | unitChar c | fold n | hexb n => exact ⟨_, List.mem_singleton.1 h⟩
    | text s =>
      obtain ⟨u, -, hu⟩ := List.mem_map.1 h
      exact ⟨_, hu.symm⟩
    | digest s =>
      rw [expandLine_digest] at h
      obtain ⟨i, -, hi⟩ := List.mem_map.1 h
      exact ⟨i, hi.symm⟩
    | units us | bytes bs =>
      obtain ⟨n, -, hn⟩ := List.mem_map.1 h
      exact ⟨_, hn.symm⟩
  obtain ⟨i, hi⟩ := hemit
  exact ⟨i, HostEvent.command.inj hi⟩

/-- A code unit's number is in UNIT's range and gives the unit back. -/
theorem emitUnit_toNat (u : CodeUnit) : emitUnit u.toNat = .command (encode (.unit u)) := by
  rw [emitUnit, emit, BitVec.ofNat_toNat, BitVec.setWidth_eq]

theorem emitFold_toNat (b : Byte) : emitFold b.toNat = .command (encode (.fold b)) := by
  rw [emitFold, emit, BitVec.ofNat_toNat, BitVec.setWidth_eq]

theorem unitOperandOk_toNat (u : CodeUnit) : unitOperandOk u.toNat = true :=
  decide_eq_true (Nat.le_of_lt_succ u.isLt)

theorem byteOperandOk_toNat (b : Byte) : byteOperandOk b.toNat = true :=
  decide_eq_true (Nat.le_of_lt_succ b.isLt)

/-! ## A word on a narrower bus (R9) -/

/-- Four bytes, the most significant first, as a number. -/
theorem fourBytes_toNat (b3 b2 b1 b0 : Byte) :
    (b3 ++ b2 ++ b1 ++ b0 : Word).toNat = b3.toNat * 2 ^ 24 + b2.toNat * 2 ^ 16 + b1.toNat * 2 ^ 8 + b0.toNat := by
  rw [BitVec.toNat_append, BitVec.toNat_append, BitVec.toNat_append, ← Nat.shiftLeft_add_eq_or_of_lt b2.isLt,
    ← Nat.shiftLeft_add_eq_or_of_lt b1.isLt, ← Nat.shiftLeft_add_eq_or_of_lt b0.isLt]
  simp only [Nat.shiftLeft_eq]
  omega

theorem byteLane_toNat (w : Word) (k : Fin 4) : (byteLane w k).toNat = w.toNat / 2 ^ (8 * k.val) % 2 ^ 8 := by
  rw [byteLane, BitVec.extractLsb'_toNat, Nat.shiftRight_eq_div_pow]

/-- Lane `k` of the word holds the byte that the order sends there. -/
theorem byteLane_wordOfTransfer (order : Equiv.Perm (Fin 4)) (bytes : Fin 4 → Byte) (k : Fin 4) :
    byteLane (wordOfTransfer order bytes) k = bytes (order.symm k) := by
  have h0 := (bytes (order.symm 0)).isLt
  have h1 := (bytes (order.symm 1)).isLt
  have h2 := (bytes (order.symm 2)).isLt
  have h3 := (bytes (order.symm 3)).isLt
  apply BitVec.eq_of_toNat_eq
  rw [byteLane_toNat, wordOfTransfer, fourBytes_toNat]
  match k with
  | 0 | 1 | 2 | 3 =>
    dsimp only [Fin.isValue, Fin.coe_ofNat_eq_mod, Nat.reduceMod, Nat.reduceMul, Nat.reducePow]
    omega

/-- A word is its four lanes. -/
theorem word_eq_lanes (w : Word) : byteLane w 3 ++ byteLane w 2 ++ byteLane w 1 ++ byteLane w 0 = w := by
  have hw := w.isLt
  apply BitVec.eq_of_toNat_eq
  rw [fourBytes_toNat, byteLane_toNat, byteLane_toNat, byteLane_toNat, byteLane_toNat]
  dsimp only [Fin.isValue, Fin.coe_ofNat_eq_mod, Nat.reduceMod, Nat.reduceMul, Nat.reducePow]
  omega

/-- The transfer that delivers a word in an order: byte `i` is the lane it lands in. -/
def transferOf (order : Equiv.Perm (Fin 4)) (w : Word) : Fin 4 → Byte := fun i => byteLane w (order i)

theorem wordOfTransfer_transferOf (order : Equiv.Perm (Fin 4)) (w : Word) :
    wordOfTransfer order (transferOf order w) = w := by
  simp only [wordOfTransfer, transferOf, Equiv.apply_symm_apply]
  exact word_eq_lanes w

theorem transferOf_wordOfTransfer (order : Equiv.Perm (Fin 4)) (bytes : Fin 4 → Byte) :
    transferOf order (wordOfTransfer order bytes) = bytes := by
  funext i
  rw [transferOf, byteLane_wordOfTransfer, Equiv.symm_apply_apply]

/-! ## HEX as an injection (R104) -/

theorem digit_injective : Function.Injective digit := by
  intro m n h
  have hn := congrArg BitVec.toNat h
  have := m.isLt
  have := n.isLt
  rw [digit_toNat, digit_toNat] at hn
  apply BitVec.eq_of_toNat_eq
  split_ifs at hn <;> omega

theorem hex_injective : Function.Injective hex := by
  intro b c h
  have hhigh := digit_injective ((highByte_hex b).symm.trans ((congrArg highByte h).trans (highByte_hex c)))
  have hlow := digit_injective ((lowByte_hex b).symm.trans ((congrArg lowByte h).trans (lowByte_hex c)))
  rw [← BitVec.toNat_inj, BitVec.extractLsb'_toNat, BitVec.extractLsb'_toNat, Nat.shiftRight_eq_div_pow,
    Nat.shiftRight_eq_div_pow] at hhigh hlow
  apply BitVec.eq_of_toNat_eq
  omega

/-- A digit's code is a digit's or a lowercase letter's. -/
theorem digit_range (n : BitVec 4) :
    (0x30 ≤ (digit n).toNat ∧ (digit n).toNat ≤ 0x39) ∨ (0x61 ≤ (digit n).toNat ∧ (digit n).toNat ≤ 0x66) := by
  have := n.isLt
  rw [digit_toNat]
  split_ifs <;> omega

theorem hexRom_nodup : hexRom.Nodup := by
  rw [hexRom_eq_ofFn, List.nodup_ofFn]
  intro m n h
  have hmn := congrArg BitVec.toNat (hex_injective h)
  rw [BitVec.toNat_ofNat, BitVec.toNat_ofNat] at hmn
  omega

/-! ## The statements -/

/-- Settles O57: what the line emits is an instruction's word, and an operand out of range is not well-formed. -/
theorem assemblyNeverWritesARejectedWord : Obligations.AssemblyNeverWritesARejectedWord := by
  refine ⟨fun l es w h hl hw => ?_, fun n hn => assembleLine_of_not_wf ?_,
    fun n hn => ⟨assembleLine_of_not_wf ?_, assembleLine_of_not_wf ?_⟩⟩
  · have hwf : l.wf = true := by
      by_contra hnot
      rw [assembleLine, if_neg hnot] at h
      cases h
    rw [assembleLine_of_wf hwf, Option.some.injEq] at h
    obtain ⟨i, rfl⟩ := command_mem_expandLine hl (h ▸ hw)
    exact ⟨i, decode_encode i⟩
  all_goals exact decide_eq_false (by omega)

/-- Settles O58: each expansion by its definition, and the surrogate pair of a character by `utf16_of_gt`. -/
theorem pseudoInstructionExpansions : Obligations.PseudoInstructionExpansions := by
  refine ⟨fun s => rfl, fun s => ?_, fun us => ?_, fun bs => ?_, rfl, fun c => ⟨fun h => ?_, utf16_of_gt⟩⟩
  · rw [assembleLine_of_wf rfl, expandLine_digest]
    rfl
  · rw [assembleLine_of_wf (by simp [AsmLine.wf, unitOperandOk_toNat]), expandLine, List.map_map]
    exact congrArg some (List.map_congr_left fun u _ => emitUnit_toNat u)
  · rw [assembleLine_of_wf (by simp [AsmLine.wf, byteOperandOk_toNat]), expandLine, List.map_map]
    exact congrArg some (List.map_congr_left fun b _ => emitFold_toNat b)
  · obtain ⟨u, hc, hu, -⟩ := utf16_of_le h
    exact ⟨u, hc, hu⟩

/-- Settles O59: in any order the transfer of a word and the word of a transfer are inverse. -/
theorem narrowBusDeliversEveryWord : Obligations.NarrowBusDeliversEveryWord := by
  refine ⟨fun w => ⟨transferOf Config.cmdByteOrder w, wordOfTransfer_transferOf _ w, ?_⟩, fun bytes i => ?_, ?_⟩
  · rintro bytes rfl
    exact (transferOf_wordOfTransfer _ bytes).symm
  · exact congrFun (transferOf_wordOfTransfer _ bytes) i
  · rintro bytes w s rfl
    rfl

/-- Settles O43: the grid is HEX entry by entry, HEX is injective, and each character is one nibble's digit. -/
theorem hexRomGridAndProperties : Obligations.HexRomGridAndProperties := by
  refine ⟨by rw [hexRom_eq_ofFn, List.length_ofFn], hexRom_nodup, hexRom_getElem?, fun b c => ⟨fun h => hex_injective h,
    fun h => ?_, fun h => ?_, ?_⟩⟩
  · rw [highByte_hex, highByte_hex, highNibble_eq_ofNat, highNibble_eq_ofNat, h]
  · rw [lowByte_hex, lowByte_hex, lowNibble_eq_ofNat, lowNibble_eq_ofNat, h]
  · simp only [hexstr, highByte_hex, lowByte_hex, List.forall_mem_cons]
    exact ⟨digit_range _, digit_range _, by simp⟩

/-- Settles O2: INIT writes what reset writes but for HEXR, and the digest words spell V. -/
theorem resetIsTheStateInitLeaves : Obligations.ResetIsTheStateInitLeaves := by
  refine ⟨rfl, fun s t h hh => ?_, fun i => ?_, ?_⟩
  · rw [exec_init, Host.Outcome.next.injEq] at h
    rw [← h, State.initialised_frame, hh]
    rfl
  · cases i <;> rfl
  · rw [charsOfWords_digestWords]
    exact digestString_offsetBasis

end Sys2Proof.Machine
